-- ==== Sys2Proof/Word.lean ====
section
/-! DEFINITION. The two word types of QRGP: 32-bit words and bytes.

Every register, command word, `CAP` word, `GRID` cell and `SEQ` entry is 32 bits (rules R8, R21 of `00_scope.md`
and `10_state.md`); every bitmap and codeword location is a byte (rule R81 of `20_memory.md`). -/

namespace Sys2Proof

/-- A 32-bit word. -/
abbrev Word := BitVec 32

/-- A byte. -/
abbrev Byte := BitVec 8

end Sys2Proof
end

