-- ==== Sys2Proof/Syntax.lean ====
section
/-! DEFINITION. The 29 commands of rule R102 of `30_encoding.md`, one constructor per row of `opcode_table.json`.

Operands are the unsigned 4-bit fields of rule R101, "used as they stand", as natural numbers; `WellFormed.lean` says which
of them fit the field. -/

namespace Sys2Proof

/-- A command of QRGP. `n`: number of bitmap copies; `m`: mask index; `k`: template copy index; `src`: bitmap scored. -/
inductive Instr where
  | nop
  | reset
  | gpInit (n : Nat)
  | gpTiming
  | gpFinder
  | gpAlign
  | gpVerinfo
  | gpFmtrsv
  | gpDark
  | gpAll (n : Nat)
  | blParam
  | blIlv
  | blSweep
  | blAll
  | fiEnc (m : Nat)
  | fiPaint (k : Nat)
  | fiPlan (m k : Nat)
  | mkApply (m k : Nat)
  | psRun (src : Nat)
  | psBox (src : Nat)
  | psFind (src : Nat)
  | psBal (src : Nat)
  | psScore (src : Nat)
  | enPlace
  | enCand (k : Nat)
  | enKeep
  | enSelect
  | enEncode
  | plPlan
deriving DecidableEq, Repr

end Sys2Proof
end

