-- ==== Sys2Proof/WellFormed.lean ====
section
/-! DEFINITION. Which commands have a word: each operand fits its 4-bit field (rules R100, R101 of `30_encoding.md`).

Whether an operand is *legal* (`n` in {1, 8}, `m ≤ 7`, `k < NCOPY`, `src ≤ 2`) is a check the engine makes when the command
runs (rules R105, R212), not a property of the encoding: `GP.INIT 2` is a well-formed command that ends with
`InvalidParameter`. -/

namespace Sys2Proof

/-- An operand fits the 4-bit field `a` or `b`. -/
def operandFits (x : Nat) : Bool := x < 16

/-- Every operand of the command fits its field. -/
def Instr.wellFormed : Instr → Bool
  | .nop => true
  | .reset => true
  | .gpInit n => operandFits n
  | .gpTiming => true
  | .gpFinder => true
  | .gpAlign => true
  | .gpVerinfo => true
  | .gpFmtrsv => true
  | .gpDark => true
  | .gpAll n => operandFits n
  | .blParam => true
  | .blIlv => true
  | .blSweep => true
  | .blAll => true
  | .fiEnc m => operandFits m
  | .fiPaint k => operandFits k
  | .fiPlan m k => operandFits m && operandFits k
  | .mkApply m k => operandFits m && operandFits k
  | .psRun src => operandFits src
  | .psBox src => operandFits src
  | .psFind src => operandFits src
  | .psBal src => operandFits src
  | .psScore src => operandFits src
  | .enPlace => true
  | .enCand k => operandFits k
  | .enKeep => true
  | .enSelect => true
  | .enEncode => true
  | .plPlan => true

end Sys2Proof
end

