-- ==== Sys2Proof/Decode.lean ====
section
/-! DEFINITION. Decoding a command word, total on all 2^32 words, and the encoder after it.

The one format `C` is rule R100 of `30_encoding.md`; the opcodes are rule R102; the illegal words are rule R106. -/

namespace Sys2Proof

/-- Field `op`, bits 7:0 (rule R100). -/
def opField (w : Word) : Nat := (w.extractLsb' 0 8).toNat

/-- Field `a`, bits 11:8 (rule R100). -/
def aField (w : Word) : Nat := (w.extractLsb' 8 4).toNat

/-- Field `b`, bits 15:12 (rule R100). -/
def bField (w : Word) : Nat := (w.extractLsb' 12 4).toNat

/-- Field `z`, bits 31:16 (rule R100). -/
def zField (w : Word) : Nat := (w.extractLsb' 16 16).toNat

/-- Why a word is illegal (rule R106): the three cases the rule lists. All three end with the one outcome
`IllegalCommand`. -/
inductive IllegalWord where
  | unknownOp
  | reservedNotZero
  | unusedOperandNotZero
deriving DecidableEq, Repr

/-- A command with no operand: `a` and `b` must be 0. -/
def noOperand (w : Word) (i : Instr) : Except IllegalWord Instr :=
  if aField w = 0 ∧ bField w = 0 then .ok i else .error .unusedOperandNotZero

/-- A command whose one operand is `a`: `b` must be 0. -/
def operandA (w : Word) (i : Nat → Instr) : Except IllegalWord Instr :=
  if bField w = 0 then .ok (i (aField w)) else .error .unusedOperandNotZero

/-- A command with the operands `a` and `b`. -/
def operandsAB (w : Word) (i : Nat → Nat → Instr) : Except IllegalWord Instr :=
  .ok (i (aField w) (bField w))

/-- The command of a word whose `z` field is 0: the opcode map of rule R102. -/
def decodeOp (w : Word) : Except IllegalWord Instr :=
  match opField w with
  | 0x00 => noOperand w .nop
  | 0x01 => noOperand w .reset
  | 0x10 => operandA w .gpInit
  | 0x11 => noOperand w .gpTiming
  | 0x12 => noOperand w .gpFinder
  | 0x13 => noOperand w .gpAlign
  | 0x14 => noOperand w .gpVerinfo
  | 0x15 => noOperand w .gpFmtrsv
  | 0x16 => noOperand w .gpDark
  | 0x17 => operandA w .gpAll
  | 0x20 => noOperand w .blParam
  | 0x21 => noOperand w .blIlv
  | 0x22 => noOperand w .blSweep
  | 0x23 => noOperand w .blAll
  | 0x30 => operandA w .fiEnc
  | 0x31 => operandA w .fiPaint
  | 0x32 => operandsAB w .fiPlan
  | 0x40 => operandsAB w .mkApply
  | 0x50 => operandA w .psRun
  | 0x51 => operandA w .psBox
  | 0x52 => operandA w .psFind
  | 0x53 => operandA w .psBal
  | 0x54 => operandA w .psScore
  | 0x60 => noOperand w .enPlace
  | 0x61 => operandA w .enCand
  | 0x62 => noOperand w .enKeep
  | 0x63 => noOperand w .enSelect
  | 0x64 => noOperand w .enEncode
  | 0x70 => noOperand w .plPlan
  | _ => .error .unknownOp

/-- The command a word stands for, or why it is illegal (rules R100, R102, R106). -/
def decode (w : Word) : Except IllegalWord Instr :=
  if zField w = 0 then decodeOp w else .error .reservedNotZero

/-- "The word is `op | a << 8 | b << 12`" (rule R110). -/
def commandWord (op a b : Nat) : Word := BitVec.ofNat 32 (op ||| a <<< 8 ||| b <<< 12)

/-- The word of a command (rules R102, R110). It is meant for well-formed commands: an operand that does not fit its
field spills into the next one. -/
def encode : Instr → Word
  | .nop => commandWord 0x00 0 0
  | .reset => commandWord 0x01 0 0
  | .gpInit n => commandWord 0x10 n 0
  | .gpTiming => commandWord 0x11 0 0
  | .gpFinder => commandWord 0x12 0 0
  | .gpAlign => commandWord 0x13 0 0
  | .gpVerinfo => commandWord 0x14 0 0
  | .gpFmtrsv => commandWord 0x15 0 0
  | .gpDark => commandWord 0x16 0 0
  | .gpAll n => commandWord 0x17 n 0
  | .blParam => commandWord 0x20 0 0
  | .blIlv => commandWord 0x21 0 0
  | .blSweep => commandWord 0x22 0 0
  | .blAll => commandWord 0x23 0 0
  | .fiEnc m => commandWord 0x30 m 0
  | .fiPaint k => commandWord 0x31 k 0
  | .fiPlan m k => commandWord 0x32 m k
  | .mkApply m k => commandWord 0x40 m k
  | .psRun src => commandWord 0x50 src 0
  | .psBox src => commandWord 0x51 src 0
  | .psFind src => commandWord 0x52 src 0
  | .psBal src => commandWord 0x53 src 0
  | .psScore src => commandWord 0x54 src 0
  | .enPlace => commandWord 0x60 0 0
  | .enCand k => commandWord 0x61 k 0
  | .enKeep => commandWord 0x62 0 0
  | .enSelect => commandWord 0x63 0 0
  | .enEncode => commandWord 0x64 0 0
  | .plPlan => commandWord 0x70 0 0

/-- The command word of a table row: the low `nbits` bits of `w`, every higher bit 0. A command is one 32-bit word, so
there is no order of words to lay out (rule R100). -/
def tableWord (nbits w : Nat) : Word := BitVec.ofNat 32 (w % 2 ^ nbits)

/-- The command the decoder reads from a table row's word. -/
def decodeTableWord (nbits w : Nat) : Option Instr := (decode (tableWord nbits w)).toOption

end Sys2Proof
end

