-- ==== Sys2Proof/Config.lean ====
section
/-! DEFINITION. What an implementation fixes (the OPEN parameters `CAP` and `FINDER_EDGE` of rule R8) as plain data, the
types those parameters and the free values are made of, and the free values themselves: constants with no body.

The parameters are a record, `Config`, that State carries as a field no step changes (log entry 1), so that every
statement holds for every `CAP` and every `FINDER_EDGE`. -/

namespace Sys2Proof

/-- The tag of a module, rule R44 of `10_state.md`. Codes 10..15 never occur, so they are not represented. -/
inductive Role where
  | unassigned
  | position
  | alignment
  | timing
  | format
  | versionPattern
  | unused
  | data
  | check
  | extra
deriving DecidableEq, Repr, Inhabited

/-- The role codes of rule R44. -/
def Role.code : Role → Nat
  | .unassigned => 0
  | .position => 1
  | .alignment => 2
  | .timing => 3
  | .format => 4
  | .versionPattern => 5
  | .unused => 6
  | .data => 7
  | .check => 8
  | .extra => 9

/-- One cell of `GRID` or one entry of `SEQ`: a role and a 15-bit offset (rules R44, R45, R47). -/
structure Cell where
  role : Role
  off  : BitVec 15
deriving DecidableEq, Repr, Inhabited

/-- The cell `GP.INIT` leaves: unassigned, offset 0 (rule R121). -/
def Cell.blank : Cell := ⟨.unassigned, 0⟩

/-- One Level tuple of a CapacityEntry: block count and check bytes per block, at the widths of rule R43. -/
structure LevelTuple where
  nb : BitVec 8
  ne : BitVec 8
deriving DecidableEq, Repr, Inhabited

/-- A CapacityEntry, rule R40, each field at the width the `CAP` window gives it (rule R43): the bounds `bytes ≤ 4095`,
`apos, astride ≤ 255` and `vpat < 2^18` of rule R41 hold by type. -/
structure CapEntry where
  bytes   : BitVec 12
  apos    : BitVec 8
  astride : BitVec 8
  vpat    : BitVec 18
  l       : LevelTuple
  m       : LevelTuple
  q       : LevelTuple
  h       : LevelTuple
deriving DecidableEq, Repr, Inhabited

/-- The entry whose eight words all read 0 (rule R43 for entries 0 and 41..63). -/
def CapEntry.zero : CapEntry := ⟨0, 0, 0, 0, ⟨0, 0⟩, ⟨0, 0⟩, ⟨0, 0⟩, ⟨0, 0⟩⟩

/-- The setting of the finder term at line ends, rule R177 of `44_penalty.md`. -/
inductive FinderEdge where
  | core9
  | core7
deriving DecidableEq, Repr, Inhabited

/-- The OPEN parameters of rule R8: the 40 records of `CAP` (record of version `v` at position `v - 1`) and
`FINDER_EDGE`. -/
structure Config where
  cap        : Vector CapEntry 40
  finderEdge : FinderEdge
deriving DecidableEq, Repr

/-- FREE VALUE (log entry 2). The byte at index `index` of bank `bank` that no access has written since the event
numbered `stamp` made the bank's contents unspecified (rules R54, R216, U1, U2, U3). -/
opaque Config.freeByte (stamp bank index : Nat) : Byte

/-- FREE VALUE (log entry 2). The cell at index `index` of window `window` (`GRID` or `SEQ`) that the engine has not
written since the event numbered `stamp` (rules R54, R216). -/
opaque Config.freeCell (stamp window index : Nat) : Cell

/-- FREE VALUE (log entry 3). The value of the read-only register at offset `offset` after the `Fatal` numbered `stamp`
(rule R216: "unspecified from then until `RESET`"). -/
opaque Config.freeReg (stamp offset : Nat) : Word

end Sys2Proof
end

