-- ==== Sys2Proof/Machine/CapRom.lean ====
section
/-! DEFINITION. The reference instance of the capacity ROM `CAP` (rule R42 of `10_state.md`), in four pieces of ten
versions each, and the reference configuration (`FINDER_EDGE = core9`, the default of rule R8). The numbers are the spec's
table, which the spec itself marks as general knowledge (item G1); log entry 1. -/

namespace Sys2Proof.Machine

/-- One row of rule R42: `bytes`, `apos`, `astride`, `vpat`, then the (nb, ne) tuples of L, M, Q, H. -/
def capEntry (bytes apos astride vpat : Nat) (l m q h : Nat × Nat) : CapEntry :=
  let tuple (x : Nat × Nat) : LevelTuple := ⟨.ofNat 8 x.1, .ofNat 8 x.2⟩
  { bytes := .ofNat 12 bytes, apos := .ofNat 8 apos, astride := .ofNat 8 astride, vpat := .ofNat 18 vpat
    l := tuple l, m := tuple m, q := tuple q, h := tuple h }

/-- Versions 1 to 10 of the table of rule R42. -/
def referenceCap1 : List CapEntry := [
  capEntry 26 100 100 0x00000 (1, 7) (1, 10) (1, 13) (1, 17),
  capEntry 44 16 100 0x00000 (1, 10) (1, 16) (1, 22) (1, 28),
  capEntry 70 20 100 0x00000 (1, 15) (1, 26) (2, 18) (2, 22),
  capEntry 100 24 100 0x00000 (1, 20) (2, 18) (2, 26) (4, 16),
  capEntry 134 28 100 0x00000 (1, 26) (2, 24) (4, 18) (4, 22),
  capEntry 172 32 100 0x00000 (2, 18) (4, 16) (4, 24) (4, 28),
  capEntry 196 20 16 0x07C94 (2, 20) (4, 18) (6, 18) (5, 26),
  capEntry 242 22 18 0x085BC (2, 24) (4, 22) (6, 22) (6, 26),
  capEntry 292 24 20 0x09A99 (2, 30) (5, 22) (8, 20) (8, 24),
  capEntry 346 26 22 0x0A4D3 (4, 18) (5, 26) (8, 24) (8, 28)]

/-- Versions 11 to 20 of the table of rule R42. -/
def referenceCap2 : List CapEntry := [
  capEntry 404 28 24 0x0BBF6 (4, 20) (5, 30) (8, 28) (11, 24),
  capEntry 466 30 26 0x0C762 (4, 24) (8, 22) (10, 26) (11, 28),
  capEntry 532 32 28 0x0D847 (4, 26) (9, 22) (12, 24) (16, 22),
  capEntry 581 24 20 0x0E60D (4, 30) (9, 24) (16, 20) (16, 24),
  capEntry 655 24 22 0x0F928 (6, 22) (10, 24) (12, 30) (18, 24),
  capEntry 733 24 24 0x10B78 (6, 24) (10, 28) (17, 24) (16, 30),
  capEntry 815 28 24 0x1145D (6, 28) (11, 28) (16, 28) (19, 28),
  capEntry 901 28 26 0x12A17 (6, 30) (13, 26) (18, 28) (21, 28),
  capEntry 991 28 28 0x13532 (7, 28) (14, 26) (21, 26) (25, 26),
  capEntry 1085 32 28 0x149A6 (8, 28) (16, 26) (20, 30) (25, 28)]

/-- Versions 21 to 30 of the table of rule R42. -/
def referenceCap3 : List CapEntry := [
  capEntry 1156 26 22 0x15683 (8, 28) (17, 26) (23, 28) (25, 30),
  capEntry 1258 24 24 0x168C9 (9, 28) (17, 28) (23, 30) (34, 24),
  capEntry 1364 28 24 0x177EC (9, 30) (18, 28) (25, 30) (30, 30),
  capEntry 1474 26 26 0x18EC4 (10, 30) (20, 28) (27, 30) (32, 30),
  capEntry 1588 30 26 0x191E1 (12, 26) (21, 28) (29, 30) (35, 30),
  capEntry 1706 28 28 0x1AFAB (12, 28) (23, 28) (34, 28) (37, 30),
  capEntry 1828 32 28 0x1B08E (12, 30) (25, 28) (34, 30) (40, 30),
  capEntry 1921 24 24 0x1CC1A (13, 30) (26, 28) (35, 30) (42, 30),
  capEntry 2051 28 24 0x1D33F (14, 30) (28, 28) (38, 30) (45, 30),
  capEntry 2185 24 26 0x1ED75 (15, 30) (29, 28) (40, 30) (48, 30)]

/-- Versions 31 to 40 of the table of rule R42. -/
def referenceCap4 : List CapEntry := [
  capEntry 2323 28 26 0x1F250 (16, 30) (31, 28) (43, 30) (51, 30),
  capEntry 2465 32 26 0x209D5 (17, 30) (33, 28) (45, 30) (54, 30),
  capEntry 2611 28 28 0x216F0 (18, 30) (35, 28) (48, 30) (57, 30),
  capEntry 2761 32 28 0x228BA (19, 30) (37, 28) (51, 30) (60, 30),
  capEntry 2876 28 24 0x2379F (19, 30) (38, 28) (53, 30) (63, 30),
  capEntry 3034 22 26 0x24B0B (20, 30) (40, 28) (56, 30) (66, 30),
  capEntry 3196 26 26 0x2542E (21, 30) (43, 28) (59, 30) (70, 30),
  capEntry 3362 30 26 0x26A64 (22, 30) (45, 28) (62, 30) (74, 30),
  capEntry 3532 24 28 0x27541 (24, 30) (47, 28) (65, 30) (77, 30),
  capEntry 3706 28 28 0x28C69 (25, 30) (49, 28) (68, 30) (81, 30)]

/-- The table of rule R42, version 1 first. -/
def referenceCap : Vector CapEntry 40 :=
  ⟨(referenceCap1 ++ referenceCap2 ++ referenceCap3 ++ referenceCap4).toArray, rfl⟩

/-- The reference `CAP` with `FINDER_EDGE` at its default (rules R8, R42). -/
def referenceConfig : Config := { cap := referenceCap, finderEdge := .core9 }

end Sys2Proof.Machine
end

