-- ==== Sys2Proof/Machine/State.lean ====
section
/-! DEFINITION. The state of QRGP as plain data (rules R20 to R55 of `10_state.md`), the outcomes of a step that stop the
machine, and the state after reset (rules R54, R240).

`INVENTORY.md` lists every field with the rule that names it. Fields that are the model's own and not the spec's say so. -/

namespace Sys2Proof.Machine

/-! ### Control and status -/

/-- The outcome code of a command, rule R211 of `60_exceptions.md`. Codes 7..15 are never written (U9). -/
inductive ErrCode where
  | ok
  | invalidParameter
  | illegalCommand
  | badState
  | badOperand
  | locked
  | fatalRaised
deriving DecidableEq, Repr

/-- The kind of a `Fatal`, rule R213. `none` is code 0; codes 1..7 and 11..15 are never written (U9). -/
inductive FatalCode where
  | none
  | sweepMismatch
  | byteCountMismatch
  | tableDefect
deriving DecidableEq, Repr

/-- `STATUS`, rule R35, one field each; its reserved bits are never set. `Status.word` (Flags.lean) is the word the host
reads. `GPSTEP` counts 0..6. -/
structure Status where
  busy     : Bool
  fatal    : Bool
  err      : ErrCode
  gridInit : Bool
  gpstep   : Fin 7
  paramOk  : Bool
  seqOk    : Bool
  layoutOk : Bool
  fmtOk    : Bool
  planOk   : Bool
  workOk   : Bool
  candOk   : Bool
  penOk    : Bool
  codeOk   : Bool
deriving DecidableEq, Repr

/-- `STATUS = 0` (rule R54). -/
def Status.zero : Status :=
  { busy := false, fatal := false, err := .ok, gridInit := false, gpstep := 0, paramOk := false, seqOk := false
    layoutOk := false, fmtOk := false, planOk := false, workOk := false, candOk := false, penOk := false
    codeOk := false }

/-- The layout `CFG` (rule R22) and `PLANCFG` (rule R26) share; bits 31:16 are reserved and read 0. -/
structure Selection where
  version : BitVec 8
  level   : BitVec 4
  mask    : BitVec 4
deriving DecidableEq, Repr

/-- The plan registers, all read-only to the host and reset to 0: `PLANCFG` (rule R26), `SIDE` and `STRIDE` (R27), `NCOPY`
(R28), the block-layout registers (R29), `SEQLEN` (R30), `FREECNT` (R31), `FMTWORD` (R32). -/
structure PlanRegs where
  plancfg    : Selection
  side       : Word
  stride     : Word
  ncopy      : Word
  nb         : Word
  ne         : Word
  nde        : Word
  extra      : Word
  databytes  : Word
  checkbytes : Word
  seqlen     : Word
  freecnt    : Word
  fmtword    : BitVec 15
deriving DecidableEq, Repr

/-- Every plan register 0. -/
def PlanRegs.zero : PlanRegs :=
  { plancfg := ⟨0, 0, 0⟩, side := 0, stride := 0, ncopy := 0, nb := 0, ne := 0, nde := 0, extra := 0, databytes := 0
    checkbytes := 0, seqlen := 0, freecnt := 0, fmtword := 0 }

/-- The penalty register file (rules R38, R39), read-only to the host, reset to 0. `BESTMASK` and `CANDMASK` hold bits
2:0. -/
structure PenRegs where
  run      : Word
  box      : Word
  find     : Word
  bal      : Word
  total    : Word
  bestmask : BitVec 3
  candmask : BitVec 3
  penm     : Vector Word 8
deriving DecidableEq, Repr

/-- Every penalty register 0. -/
def PenRegs.zero : PenRegs :=
  { run := 0, box := 0, find := 0, bal := 0, total := 0, bestmask := 0, candmask := 0
    penm := #v[0, 0, 0, 0, 0, 0, 0, 0] }

/-- `CODESIDE` and `CODESTRIDE` (rule R55), read-only to the host, reset to 0. -/
structure CodeRegs where
  side   : Word
  stride : Word
deriving DecidableEq, Repr

/-! ### Memories -/

/-- A memory: its locations that hold a known value, as (index, value) pairs with strictly rising indices
(`Memory.wf`). A location not listed holds an unspecified value, a free value of `Config` (log entry 2). A byte memory is
a list of `Host.Cell`. -/
abbrev Memory (α : Type) := List (Nat × α)

/-- The eight template banks `TPL[0..7]` (rules R48, R49). -/
abbrev Templates := Vector (Memory Byte) 8

/-- Every template bank with nothing listed. -/
def Templates.empty : Templates := #v[[], [], [], [], [], [], [], []]

/-! ### The host's side -/

/-- What happens next at the block's boundary. A list of events is one interleaving of the two agents of rule R20. -/
inductive Event where
  /-- The engine's turn. -/
  | engine
  /-- `MemRead(addr, width)`, rules R13 and R81. -/
  | read (addr : BitVec 20) (width : Nat)
  /-- `MemWrite(addr, width, value)`; a byte access stores the low byte of `value`. -/
  | write (addr : BitVec 20) (width : Nat) (value : Word)
  /-- The hardware reset input is asserted (rule R240). -/
  | hardReset
deriving DecidableEq, Repr

/-- The bus's answer to a host access (rule R82). -/
inductive BusAnswer where
  /-- An accepted read: the word, or the byte extended with zeros. -/
  | data (value : Word)
  /-- An accepted write. -/
  | stored
  /-- A refused access: "no data", "reported to the host by the bus's error response". -/
  | refused
deriving DecidableEq, Repr

/-- The boundary between QRGP and the outside, the model's own (log entry 4): the events still to come, oldest first, and
the bus's answer to the last host access. -/
structure Port where
  events : List Event
  answer : Option BusAnswer
deriving DecidableEq, Repr

/-! ### The machine -/

/-- The state of QRGP. -/
structure State where
  /-- `STATUS`, rule R35. -/
  status : Status
  /-- `CFG`, rule R22. -/
  cfg : Selection
  /-- `CWLEN`, rule R25. -/
  cwlen : BitVec 13
  /-- `ERRCMD`, rule R36. -/
  errcmd : Word
  /-- `FATALCODE`, rule R37. -/
  fatalcode : FatalCode
  /-- `PENDING`, rule R53: the hidden latch a `CMD` write fills (rule R34). -/
  pending : Word
  /-- The plan registers, rules R26 to R32. -/
  plan : PlanRegs
  /-- The penalty registers, rules R38 and R39. -/
  pen : PenRegs
  /-- `CODESIDE`, `CODESTRIDE`, rule R55. -/
  code : CodeRegs
  /-- `GRID`, rules R44 and R45: cell `(r, c)` at index `256·r + c`. -/
  grid : Memory Cell
  /-- `SEQ`, rule R47: entry `i` at index `i`. -/
  seq : Memory Cell
  /-- `TPL[0..7]`, rules R48 and R49: byte `j` of a bank at index `j`. -/
  tpl : Templates
  /-- `WORK`, rule R50. -/
  work : Memory Byte
  /-- `CAND`, rule R50. -/
  cand : Memory Byte
  /-- `OUT`, rule R51. -/
  out : Memory Byte
  /-- `CW`, rule R52: byte `j` at index `j`. -/
  cw : Memory Byte
  /-- The OPEN parameters `CAP` (rule R40) and `FINDER_EDGE` (rule R177); no step changes them (log entry 1). -/
  config : Config
  /-- The model's own: numbers the reset that last made the contents of `CW` unspecified (log entry 2). -/
  cwStamp : Nat
  /-- The model's own: numbers the reset or `Fatal` that last made the engine's state unspecified (log entries 2, 3). -/
  engineStamp : Nat
  /-- The model's own: the block's boundary (log entry 4). -/
  port : Port
deriving DecidableEq, Repr

/-- Why the machine stops for good. -/
inductive Fault where
  /-- Raised by `GP.ALIGN`, and by `GP.ALL` and `PL.PLAN` which run it, when the alignment loop of rule R126 does not end
  because `CAP` breaks rule R41 (`apos < 5` or `astride = 0`). U12: "undefined, possibly `stuck` (the alignment loop would
  not end)". SAFE: the model stops where the hardware may hang (log entry 5). -/
  | alignLoopEndless
deriving DecidableEq, Repr

/-- Why an instruction has no meaning in the model. -/
inductive Refusal where
  /-- Raised by an arm of `exec` whose instruction has no meaning yet; no arm does. SAFE. -/
  | notModelled (mnemonic : String)
deriving DecidableEq, Repr

/-- The machine right after a hardware reset (rules R54, R240): every register 0, every memory unspecified (nothing
listed), the engine idle, nothing on the bus. `PENDING` is "unspecified and meaningless"; 0 here (log entry 6). The
parameters are the reference instance (log entry 1). -/
def State.reset : State :=
  { status := Status.zero
    cfg := ⟨0, 0, 0⟩
    cwlen := 0
    errcmd := 0
    fatalcode := .none
    pending := 0
    plan := PlanRegs.zero
    pen := PenRegs.zero
    code := ⟨0, 0⟩
    grid := []
    seq := []
    tpl := Templates.empty
    work := []
    cand := []
    out := []
    cw := []
    config := referenceConfig
    cwStamp := 0
    engineStamp := 0
    port := ⟨[], none⟩ }

end Sys2Proof.Machine
end

