-- ==== Sys2Proof/Machine/Memory.lean ====
section
/-! DEFINITION. The operations on one memory (a list of index and value pairs), and its canonical form.

A memory is one bank of `10_state.md` (`GRID`, `SEQ`, `TPL[k]`, `WORK`, `CAND`, `OUT`, `CW`); "the engine does not use
addresses: its rules name cells, bits and bytes by index" (rule R70 of `20_memory.md`). -/

namespace Sys2Proof.Machine

/-- The canonical form: indices strictly rising. An unlisted location has no value of its own (it reads as a free value),
so no entry can repeat what an unlisted location reads as. -/
abbrev Memory.wf {α : Type} (m : Memory α) : Prop := (m.map Prod.fst).Pairwise (· < ·)

/-- The value a memory lists at an index. -/
def Memory.get? {α : Type} : Memory α → Nat → Option α
  | [], _ => none
  | (k, v) :: m, i => if k = i then some v else Memory.get? m i

/-- Write one location. -/
def Memory.set {α : Type} : Memory α → Nat → α → Memory α
  | [], i, v => [(i, v)]
  | (k, w) :: m, i, v =>
    if i < k then (i, v) :: (k, w) :: m
    else if i = k then (i, v) :: m
    else (k, w) :: Memory.set m i v

/-- Write several locations. -/
def Memory.setMany {α : Type} (m : Memory α) (l : List (Nat × α)) : Memory α :=
  l.foldr (fun p acc => Memory.set acc p.1 p.2) m

/-- The pairs (first index, first value), (next index, next value), … of a list of values. -/
def Memory.enumerate {α : Type} : Nat → List α → Memory α
  | _, [] => []
  | i, v :: vs => (i, v) :: Memory.enumerate (i + 1) vs

/-- Write a list of values at the indices 0, 1, 2, …; every location beyond them keeps its value. -/
def Memory.writeList {α : Type} (m : Memory α) (vs : List α) : Memory α :=
  Memory.enumerate 0 vs ++ m.filter (fun p => vs.length ≤ p.1)

/-! ### `GRID`'s index -/

/-- The index of cell `(r, c)` (rule R45: row pitch 256). -/
def cellIndex (r c : Nat) : Nat := 256 * r + c

/-- The coordinates of a grid of side `side`, row by row. -/
def coordinates (side : Nat) : List (Nat × Nat) :=
  (List.range side).flatMap fun r => (List.range side).map fun c => (r, c)

/-- "for r in 0..SIDE-1: for c in 0..SIDE-1: GRID[r][c] <- (Unassigned, 0)" (rule R121); a cell outside the grid keeps
what it held. -/
def clearGrid (side : Nat) (grid : Memory Cell) : Memory Cell :=
  Memory.setMany (grid.filter fun p => ¬ (p.1 / 256 < side ∧ p.1 % 256 < side))
    ((coordinates side).map fun p => (cellIndex p.1 p.2, Cell.blank))

end Sys2Proof.Machine
end

