-- ==== Sys2Proof/Machine/Bitmap.lean ====
section
/-! DEFINITION. The packing of bits into bytes: bitmaps (rule R71 of `20_memory.md`) and the codeword stream (rule R72).

A bitmap is read through `byte : Nat → Byte`, the byte its bank holds at an index. -/

namespace Sys2Proof.Machine

/-- The byte a memory holds at an index, `free` giving the unspecified ones. -/
def byteAt (m : Memory Byte) (free : Nat → Byte) (j : Nat) : Byte := (Memory.get? m j).getD (free j)

/-- Byte `b` with bit `i` set to `v`. -/
def withBit (b : Byte) (i : Nat) (v : Bool) : Byte :=
  if v then b ||| (1#8 <<< i) else b &&& ~~~(1#8 <<< i)

/-- The index of the byte that holds module `(r, c)`: `r·T + (c div 8)` (rule R71). -/
def pixelByte (stride r c : Nat) : Nat := r * stride + c / 8

/-- The bit of module `(r, c)` in its byte: `7 − (c mod 8)` (rule R71). -/
def pixelBit (c : Nat) : Nat := 7 - c % 8

/-- `B[r][c]` (rules R13, R71): `true` is 1, black. -/
def pixel (byte : Nat → Byte) (stride r c : Nat) : Bool :=
  (byte (pixelByte stride r c)).getLsbD (pixelBit c)

/-- `B[r][c] <- v`. -/
def setPixel (m : Memory Byte) (free : Nat → Byte) (stride r c : Nat) (v : Bool) : Memory Byte :=
  Memory.set m (pixelByte stride r c) (withBit (byteAt m free (pixelByte stride r c)) (pixelBit c) v)

/-- `B[r][c] <- B[r][c] xor v`. -/
def xorPixel (m : Memory Byte) (free : Nat → Byte) (stride r c : Nat) (v : Bool) : Memory Byte :=
  setPixel m free stride r c (pixel (byteAt m free) stride r c ^^ v)

/-- Bit `o` of the codeword stream: bit `7 − (o mod 8)` of `CW[o div 8]` (rule R72). -/
def streamBit (byte : Nat → Byte) (o : Nat) : Bool := (byte (o / 8)).getLsbD (7 - o % 8)

end Sys2Proof.Machine
end

