-- ==== Sys2Proof/Machine/Flags.lean ====
section
/-! DEFINITION. `STATUS` and the codes it holds: the word the host reads, and every update of its flags (rule R35 of
`10_state.md`; the "only condition codes QRGP has"). -/

namespace Sys2Proof.Machine

/-- The number of an outcome code, rule R211. -/
def ErrCode.code : ErrCode → Nat
  | .ok => 0
  | .invalidParameter => 1
  | .illegalCommand => 2
  | .badState => 3
  | .badOperand => 4
  | .locked => 5
  | .fatalRaised => 6

/-- The number of a fatal code, rule R213. -/
def FatalCode.code : FatalCode → Nat
  | .none => 0
  | .sweepMismatch => 8
  | .byteCountMismatch => 9
  | .tableDefect => 10

/-- The 32-bit word of `STATUS`, bit by bit as the table of rule R35; reserved bits are 0. -/
def Status.word (st : Status) : Word :=
  BitVec.ofNat 32
    (st.busy.toNat + st.fatal.toNat <<< 1 + st.err.code <<< 4 + st.gridInit.toNat <<< 8 + st.gpstep.val <<< 9
      + st.paramOk.toNat <<< 12 + st.seqOk.toNat <<< 13 + st.layoutOk.toNat <<< 14 + st.fmtOk.toNat <<< 15
      + st.planOk.toNat <<< 16 + st.workOk.toNat <<< 17 + st.candOk.toNat <<< 18 + st.penOk.toNat <<< 19
      + st.codeOk.toNat <<< 20)

/-- `GRID_OK`: `GRID_INIT = 1 and GPSTEP = 6` (rules R35, R108). -/
def Status.gridOk (st : Status) : Bool := st.gridInit && st.gpstep == 6

/-- The end of a command (rule R103): its outcome code, and `BUSY <- 0`. -/
def Status.ended (st : Status) (code : ErrCode) : Status := { st with err := code, busy := false }

/-- `GP.INIT` (rule R121): `GRID_INIT <- 1`, `GPSTEP <- 0`, every readiness flag but `CODE_OK` cleared. -/
def Status.planStarted (st : Status) : Status :=
  { st with
    gridInit := true, gpstep := 0, paramOk := false, seqOk := false, layoutOk := false, fmtOk := false
    planOk := false, workOk := false, candOk := false, penOk := false }

/-- A `Fatal` (rule R216): `FATAL <- 1`, every readiness flag and `GPSTEP` cleared. -/
def Status.fatalLatched (st : Status) : Status :=
  { st with
    fatal := true, gridInit := false, gpstep := 0, paramOk := false, seqOk := false, layoutOk := false, fmtOk := false
    planOk := false, workOk := false, candOk := false, penOk := false, codeOk := false }

/-- `BL.PARAM` (rule R141): `PARAM_OK <- 1`, `SEQ_OK <- 0`, `FMT_OK <- 0`. -/
def Status.paramsComputed (st : Status) : Status := { st with paramOk := true, seqOk := false, fmtOk := false }

/-- `EN.PLACE` (rule R191): `WORK_OK <- 1`, `CAND_OK <- 0`, `PEN_OK <- 0`. -/
def Status.placed (st : Status) : Status := { st with workOk := true, candOk := false, penOk := false }

/-- `EN.CAND` (rule R192): `CAND_OK <- 1`, `PEN_OK <- 0`. -/
def Status.candidateMade (st : Status) : Status := { st with candOk := true, penOk := false }

end Sys2Proof.Machine
end

