-- ==== Sys2Proof/Machine/Operands.lean ====
section
/-! DEFINITION. The operands of a command: the four kinds of rule R101 of `30_encoding.md`, what each legal value means, and
the range checks of rules R105 and R212 (tests 4 and 5). -/

namespace Sys2Proof.Machine

/-- Operand `n`, the number of bitmap copies, is 1 or 8; else `InvalidParameter`. -/
def legalCopies (n : Nat) : Bool := n == 1 || n == 8

/-- Operand `m`, a mask index, is 0..7; else `InvalidParameter`. -/
def legalMask (m : Nat) : Bool := m ≤ 7

/-- Operand `k`, a template copy index, is 0..7 and below `NCOPY`; else `BadOperand`. -/
def legalTemplate (k : Nat) (s : State) : Bool := k ≤ 7 && decide (k < s.plan.ncopy.toNat)

/-- Operand `src` is 0, 1 or 2; else `BadOperand`. -/
def legalSource (src : Nat) : Bool := src ≤ 2

/-- `CFG.VERSION` is 1..40 (rule R22); else `InvalidParameter`. -/
def legalVersion (s : State) : Bool := decide (1 ≤ s.cfg.version.toNat) && decide (s.cfg.version.toNat ≤ 40)

/-- `CFG.LEVEL` is 0..3 (rule R22); else `InvalidParameter`. -/
def legalLevel (s : State) : Bool := decide (s.cfg.level.toNat ≤ 3)

/-- `sext_4(CFG.MASK)`: the requested mask, −1 for search (rules R11, R22, R24). -/
def requestedMask (s : State) : Int := s.cfg.mask.toInt

/-- `sext_4(CFG.MASK)` is −1..7 (rule R22); else `InvalidParameter`. -/
def legalRequestedMask (s : State) : Bool := decide (-1 ≤ requestedMask s) && decide (requestedMask s ≤ 7)

/-- A bitmap the Penalty Scorer can read (rules R101, R170). -/
inductive Source where
  | cand
  | out
  | work
deriving DecidableEq, Repr

/-- The bitmap of operand `src`: 0 = `CAND`, 1 = `OUT`, 2 = `WORK`. -/
def sourceOf : Nat → Option Source
  | 0 => some .cand
  | 1 => some .out
  | 2 => some .work
  | _ => none

/-- The readiness flag of the bitmap operand `src` names; "for `src` in 3..15 there is no bitmap and no flag to test"
(rule R170). -/
def sourceReady (src : Nat) (s : State) : Bool :=
  match sourceOf src with
  | some .cand => s.status.candOk
  | some .out => s.status.codeOk
  | some .work => s.status.workOk
  | none => true

end Sys2Proof.Machine
end

