-- ==== Sys2Proof/Machine/Ops.lean ====
section
/-! DEFINITION. The shared operations: reading the state, painting the grid and the templates, the three ways a command ends
(rules R210, R214, R216), the reset event (rule R240), and the frame every command runs in (rules R103, R212). -/

namespace Sys2Proof.Machine

/-! ### Reading the state -/

/-- `SIDE` as a number. -/
def State.side (s : State) : Nat := s.plan.side.toNat

/-- `STRIDE` as a number. -/
def State.stride (s : State) : Nat := s.plan.stride.toNat

/-- `NCOPY` as a number. -/
def State.ncopy (s : State) : Nat := s.plan.ncopy.toNat

/-- `CAP[v]` (rule R40): the record of version `v`; versions outside 1..40 read as zero (rule R43). -/
def capRecord (config : Config) (v : Nat) : CapEntry :=
  if v = 0 then CapEntry.zero else config.cap[v - 1]?.getD CapEntry.zero

/-- The Level tuple `l` of a record. -/
def levelTuple (e : CapEntry) : Nat → LevelTuple
  | 0 => e.l
  | 1 => e.m
  | 2 => e.q
  | 3 => e.h
  | _ => ⟨0, 0⟩

/-- `CAP[PLANCFG.VERSION]`. -/
def State.capEntry (s : State) : CapEntry := capRecord s.config s.plan.plancfg.version.toNat

/-- The number of a bank, its window's address divided by 0x1000 (rule R80); for a free byte's name only. -/
def cwBank : Nat := 0x1
def outBank : Nat := 0x2
def workBank : Nat := 0x3
def candBank : Nat := 0x4
def tplBank (k : Nat) : Nat := 0x8 + k
def gridBank : Nat := 0x40
def seqBank : Nat := 0x80

/-- `GRID[r][c]`. -/
def State.cell (s : State) (r c : Nat) : Cell :=
  (Memory.get? s.grid (cellIndex r c)).getD (Config.freeCell s.engineStamp gridBank (cellIndex r c))

/-- `SEQ[i]`. -/
def State.entry (s : State) (i : Nat) : Cell :=
  (Memory.get? s.seq i).getD (Config.freeCell s.engineStamp seqBank i)

/-- Bank `TPL[k]`. -/
def State.bank (s : State) (k : Nat) : Memory Byte := s.tpl[k]?.getD []

/-- Byte `j` of `TPL[k]`. -/
def State.tplByte (s : State) (k j : Nat) : Byte :=
  byteAt (s.bank k) (Config.freeByte s.engineStamp (tplBank k)) j

/-- Byte `j` of `WORK`. -/
def State.workByte (s : State) (j : Nat) : Byte := byteAt s.work (Config.freeByte s.engineStamp workBank) j

/-- Byte `j` of `CAND`. -/
def State.candByte (s : State) (j : Nat) : Byte := byteAt s.cand (Config.freeByte s.engineStamp candBank) j

/-- Byte `j` of `OUT`. -/
def State.outByte (s : State) (j : Nat) : Byte := byteAt s.out (Config.freeByte s.engineStamp outBank) j

/-- `CW[j]`: a byte the host has not written since reset is a free value (rules R52, R54, U2). -/
def State.cwByte (s : State) (j : Nat) : Byte := byteAt s.cw (Config.freeByte s.cwStamp cwBank) j

/-- `TPL[k][r][c]`. -/
def State.tplPixel (s : State) (k r c : Nat) : Bool := pixel (s.tplByte k) s.stride r c

/-- `WORK[r][c]`. -/
def State.workPixel (s : State) (r c : Nat) : Bool := pixel s.workByte s.stride r c

/-- `CAND[r][c]`. -/
def State.candPixel (s : State) (r c : Nat) : Bool := pixel s.candByte s.stride r c

/-- `OUT[r][c]`: "for `OUT`, `S = CODESIDE` and `T = CODESTRIDE`" (rule R71). -/
def State.outPixel (s : State) (r c : Nat) : Bool := pixel s.outByte s.code.stride.toNat r c

/-! ### Writing the templates and painting (rule R13) -/

/-- `TPL[k][r][c] <- v`; a `k` outside 0..7 names no bank and writes nothing. -/
def State.setTplPixel (s : State) (k r c : Nat) (v : Bool) : State :=
  { s with
    tpl := s.tpl.setIfInBounds k
      (setPixel (s.bank k) (Config.freeByte s.engineStamp (tplBank k)) s.stride r c v) }

/-- One `paint(r, c, role, off, colour)`. -/
structure Paint where
  r : Nat
  c : Nat
  role : Role
  off : Nat
  colour : Bool
deriving DecidableEq, Repr

/-- "`GRID[r][c] <- (role, off)`; for every `k` in `0..NCOPY−1`: `TPL[k][r][c] <- colour`" (rule R13). -/
def State.paint (s : State) (p : Paint) : State :=
  (List.range s.ncopy).foldl (fun t k => State.setTplPixel t k p.r p.c p.colour)
    { s with grid := Memory.set s.grid (cellIndex p.r p.c) ⟨p.role, .ofNat 15 p.off⟩ }

/-- The paints of a list, in order: "a later `paint` of a cell replaces both the role and the colour an earlier one gave
it" (rule R120). -/
def State.paintAll (s : State) (ps : List Paint) : State := ps.foldl State.paint s

/-! ### How a command ends -/

/-- Success (rules R103, R210): `STATUS.ERR <- 0`, `STATUS.BUSY <- 0`; `ERRCMD` is left unchanged (rule R36). -/
def State.finish (s : State) : State := { s with status := s.status.ended .ok }

/-- Rejection (rule R214): `STATUS.ERR <- code`, `ERRCMD <- w`, `STATUS.BUSY <- 0`, and nothing else. This is QRGP's "trap
entry" (rule R220). -/
def State.reject (s : State) (code : ErrCode) : State :=
  { s with status := s.status.ended code, errcmd := s.pending }

/-- The plan registers after the `Fatal` numbered `t`: unspecified (rule R216); their reserved bits read 0 (U7). -/
def freePlanRegs (t : Nat) : PlanRegs :=
  let w := Config.freeReg t 0x20
  { plancfg := ⟨w.extractLsb' 0 8, w.extractLsb' 8 4, w.extractLsb' 12 4⟩
    side := Config.freeReg t 0x24
    stride := Config.freeReg t 0x28
    ncopy := Config.freeReg t 0x2C
    nb := Config.freeReg t 0x30
    ne := Config.freeReg t 0x34
    nde := Config.freeReg t 0x38
    extra := Config.freeReg t 0x3C
    databytes := Config.freeReg t 0x40
    checkbytes := Config.freeReg t 0x44
    seqlen := Config.freeReg t 0x48
    freecnt := Config.freeReg t 0x4C
    fmtword := (Config.freeReg t 0x50).extractLsb' 0 15 }

/-- The penalty registers after the `Fatal` numbered `t`: unspecified (rule R216). -/
def freePenRegs (t : Nat) : PenRegs :=
  { run := Config.freeReg t 0x60
    box := Config.freeReg t 0x64
    find := Config.freeReg t 0x68
    bal := Config.freeReg t 0x6C
    total := Config.freeReg t 0x70
    bestmask := (Config.freeReg t 0x74).extractLsb' 0 3
    candmask := (Config.freeReg t 0x78).extractLsb' 0 3
    penm := #v[Config.freeReg t 0x80, Config.freeReg t 0x84, Config.freeReg t 0x88, Config.freeReg t 0x8C,
      Config.freeReg t 0x90, Config.freeReg t 0x94, Config.freeReg t 0x98, Config.freeReg t 0x9C] }

/-- `CODESIDE` and `CODESTRIDE` after the `Fatal` numbered `t`: unspecified (rule R216). -/
def freeCodeRegs (t : Nat) : CodeRegs := ⟨Config.freeReg t 0xA0, Config.freeReg t 0xA4⟩

/-- `raise Fatal(code)` (rule R216): `FATAL`, `FATALCODE`, `ERR`, `ERRCMD` and `BUSY` written, every readiness flag and
`GPSTEP` cleared, the engine's memories and the other read-only registers unspecified; `CFG`, `CWLEN` and `CW` kept. The
partial effects of the command are lost in what is unspecified. -/
def State.raiseFatal (s : State) (code : FatalCode) : State :=
  let t := s.engineStamp + 1
  { s with
    status := s.status.fatalLatched.ended .fatalRaised
    errcmd := s.pending
    fatalcode := code
    plan := freePlanRegs t
    pen := freePenRegs t
    code := freeCodeRegs t
    grid := [], seq := [], tpl := Templates.empty, work := [], cand := [], out := []
    engineStamp := t }

/-- The reset event (rule R240), of the hardware reset input or of the `RESET` command: the state of rule R54. `CAP` is a
ROM and stays; the events still to come at the boundary are not the block's to drop. -/
def State.resetEvent (s : State) : State :=
  { State.reset with
    config := s.config
    cwStamp := s.cwStamp + 1
    engineStamp := s.engineStamp + 1
    port := s.port }

/-! ### The frame of a command -/

/-- The result of a command's effect: it completes, raises a `Fatal`, or does not end. -/
inductive Effect where
  | done (s : State)
  | fatal (code : FatalCode)
  | stuck (f : Fault)
deriving DecidableEq, Repr

/-- The next sub-step of a composite command: "a `Fatal` raised by a sub-step ends the composite at that point"
(rule R109). -/
def Effect.andThen (e : Effect) (f : State → Effect) : Effect :=
  match e with
  | .done s => f s
  | .fatal code => .fatal code
  | .stuck r => .stuck r

/-- The end of the engine's step, from the state before the command and the effect of the command (rule R103). -/
def conclude (s : State) : Effect → Host.Outcome State Fault Refusal
  | .done t => .next t.finish
  | .fatal code => .next (s.raiseFatal code)
  | .stuck r => .fault r

/-- The engine's step on a legal command word other than `RESET` (rules R103, R212): tests 1, 3, 4 and 5 in order, then
the effect. Test 2, the legality of the word, is the decoder's. `pre`: the state precondition (rule R108); `param`: the
`CFG` fields, `n` and `m` the command uses are in range; `operand`: `k` or `src` is in range. -/
def runCommand (s : State) (pre param operand : Bool) (effect : State → Effect) : Host.Outcome State Fault Refusal :=
  if s.status.fatal then .next (s.reject .locked)
  else if !pre then .next (s.reject .badState)
  else if !param then .next (s.reject .invalidParameter)
  else if !operand then .next (s.reject .badOperand)
  else conclude s (effect s)

/-- The engine's step on an illegal word (rules R106, R212): test 1 looks at `op` only, then `IllegalCommand`. -/
def State.illegalCommand (s : State) : State :=
  if s.status.fatal ∧ opField s.pending ≠ 0x01 then s.reject .locked else s.reject .illegalCommand

end Sys2Proof.Machine
end

