-- ==== Sys2Proof/Machine/Bus.lean ====
section
/-! DEFINITION. The host's accesses: the address map (rule R80 of `20_memory.md`), the widths and alignment (R81), what is
refused (R82, R84, R85, R86), what a read returns and what a write does (R34, R43, R45, R47, R87). -/

namespace Sys2Proof.Machine

/-! ### Words -/

/-- The word of `CFG` and `PLANCFG` (rules R22, R26); bits 31:16 read 0. -/
def Selection.word (x : Selection) : Word :=
  BitVec.ofNat 32 (x.version.toNat + x.level.toNat <<< 8 + x.mask.toNat <<< 12)

/-- A host write of `CFG`: the writable bits are stored, the reserved ones ignored (rules R22, R87). -/
def Selection.ofWord (w : Word) : Selection := ⟨w.extractLsb' 0 8, w.extractLsb' 8 4, w.extractLsb' 12 4⟩

/-- The word of a `GRID` cell or `SEQ` entry: the role code in bits 3:0, the offset in bits 18:4 (rules R45, R47). -/
def cellWord (x : Cell) : Word := BitVec.ofNat 32 (x.role.code + x.off.toNat <<< 4)

/-- `ID` reads 0x51524750 always (rule R33). -/
def idWord : Word := 0x51524750

/-- Four 8-bit fields in one word, the first in bits 7:0. -/
def packBytes (b0 b1 b2 b3 : BitVec 8) : Word :=
  BitVec.ofNat 32 (b0.toNat + b1.toNat <<< 8 + b2.toNat <<< 16 + b3.toNat <<< 24)

/-- Word `i` of a record in the `CAP` window (rule R43). -/
def capWord (e : CapEntry) (i : Nat) : Word :=
  match i with
  | 0 => e.bytes.setWidth 32
  | 1 => packBytes e.apos e.astride 0 0
  | 2 => e.vpat.setWidth 32
  | 3 => packBytes e.l.nb e.m.nb e.q.nb e.h.nb
  | 4 => packBytes e.l.ne e.m.ne e.q.ne e.h.ne
  | _ => 0

/-! ### The address map -/

/-- What an access of a legal width and alignment names (rules R80, R81). -/
inductive Location where
  | register (offset : Nat)
  | cap (version index : Nat)
  | cw (j : Nat)
  | out (j : Nat)
  | work (j : Nat)
  | cand (j : Nat)
  | tpl (k j : Nat)
  | grid (r c : Nat)
  | seq (i : Nat)
deriving DecidableEq, Repr

/-- The location of a word access at offset `a`: "a word access needs `addr mod 4 = 0`" and exists in the word spaces. -/
def wordLocation (a : Nat) : Option Location :=
  if a % 4 ≠ 0 then none
  else if a < 0x100 then some (.register a)
  else if a < 0x800 then none
  else if a < 0x1000 then some (.cap ((a - 0x800) / 32) ((a - 0x800) % 32 / 4))
  else if a < 0x40000 then none
  else if a < 0x80000 then some (.grid ((a - 0x40000) / 4 / 256) ((a - 0x40000) / 4 % 256))
  else if a < 0xA0000 then some (.seq ((a - 0x80000) / 4))
  else none

/-- The location of a byte access at offset `a`, which exists in the byte spaces. -/
def byteLocation (a : Nat) : Option Location :=
  if a < 0x1000 then none
  else if a < 0x2000 then some (.cw (a - 0x1000))
  else if a < 0x3000 then some (.out (a - 0x2000))
  else if a < 0x4000 then some (.work (a - 0x3000))
  else if a < 0x5000 then some (.cand (a - 0x4000))
  else if a < 0x8000 then none
  else if a < 0x10000 then some (.tpl ((a - 0x8000) / 0x1000) ((a - 0x8000) % 0x1000))
  else none

/-- The location an access of `width` bytes names; `none` for "any other width, a misaligned word access, and any access
to a reserved range" (rule R81). -/
def locationOf (addr : BitVec 20) (width : Nat) : Option Location :=
  if width = 4 then wordLocation addr.toNat else if width = 1 then byteLocation addr.toNat else none

/-! ### Reads -/

/-- The register at an offset, as the host reads it; `none` for a reserved offset and for `CMD`, which is write-only
(rules R80, R84). -/
def readRegister (s : State) (offset : Nat) : Option Word :=
  match offset with
  | 0x00 => some idWord
  | 0x08 => some s.status.word
  | 0x0C => some s.cfg.word
  | 0x10 => some (s.cwlen.setWidth 32)
  | 0x14 => some s.errcmd
  | 0x18 => some (.ofNat 32 s.fatalcode.code)
  | 0x20 => some s.plan.plancfg.word
  | 0x24 => some s.plan.side
  | 0x28 => some s.plan.stride
  | 0x2C => some s.plan.ncopy
  | 0x30 => some s.plan.nb
  | 0x34 => some s.plan.ne
  | 0x38 => some s.plan.nde
  | 0x3C => some s.plan.extra
  | 0x40 => some s.plan.databytes
  | 0x44 => some s.plan.checkbytes
  | 0x48 => some s.plan.seqlen
  | 0x4C => some s.plan.freecnt
  | 0x50 => some (s.plan.fmtword.setWidth 32)
  | 0x60 => some s.pen.run
  | 0x64 => some s.pen.box
  | 0x68 => some s.pen.find
  | 0x6C => some s.pen.bal
  | 0x70 => some s.pen.total
  | 0x74 => some (s.pen.bestmask.setWidth 32)
  | 0x78 => some (s.pen.candmask.setWidth 32)
  | 0x80 => some (s.pen.penm[0])
  | 0x84 => some (s.pen.penm[1])
  | 0x88 => some (s.pen.penm[2])
  | 0x8C => some (s.pen.penm[3])
  | 0x90 => some (s.pen.penm[4])
  | 0x94 => some (s.pen.penm[5])
  | 0x98 => some (s.pen.penm[6])
  | 0x9C => some (s.pen.penm[7])
  | 0xA0 => some s.code.side
  | 0xA4 => some s.code.stride
  | _ => none

/-- A byte as the value of a byte read. -/
def byteValue (b : Byte) : Word := b.setWidth 32

/-- The value of a location, or `none` where the read is refused: the table of rule R86. -/
def readLocation (s : State) : Location → Option Word
  | .register offset => readRegister s offset
  | .cap version index => some (capWord (capRecord s.config version) index)
  | .cw j => some (byteValue (s.cwByte j))
  | .out j =>
    if s.status.codeOk ∧ j < s.code.stride.toNat * s.code.side.toNat then some (byteValue (s.outByte j)) else none
  | .work j => if s.status.workOk ∧ j < s.stride * s.side then some (byteValue (s.workByte j)) else none
  | .cand j => if s.status.candOk ∧ j < s.stride * s.side then some (byteValue (s.candByte j)) else none
  | .tpl k j =>
    if s.status.gridInit ∧ k < s.ncopy ∧ j < s.stride * s.side then some (byteValue (s.tplByte k j)) else none
  | .grid r c => if s.status.gridInit ∧ r < s.side ∧ c < s.side then some (cellWord (s.cell r c)) else none
  | .seq i => if s.status.seqOk ∧ i < s.plan.seqlen.toNat then some (cellWord (s.entry i)) else none

/-- "While `STATUS.BUSY = 1` the host may read `STATUS` and `ID`; every other access … is refused" (rule R85). -/
def readableWhileBusy : Location → Bool
  | .register offset => offset == 0x00 || offset == 0x08
  | .cap _ _ | .cw _ | .out _ | .work _ | .cand _ | .tpl _ _ | .grid _ _ | .seq _ => false

/-- `MemRead(addr, width)`: the value, or `none` when the access is refused. It has no side effect (rule R87). -/
def memRead (s : State) (addr : BitVec 20) (width : Nat) : Option Word :=
  match locationOf addr width with
  | none => none
  | some loc => if s.status.busy && !readableWhileBusy loc then none else readLocation s loc

/-! ### Writes -/

/-- An accepted write of `CMD` (rule R34): "sets `PENDING <- w` and `STATUS.BUSY <- 1` and nothing else". -/
def State.writeCmd (s : State) (w : Word) : State :=
  { s with pending := w, status := { s.status with busy := true } }

/-- The state after a write of a location, or `none` where the write is refused: only `CMD`, `CFG`, `CWLEN` and `CW` are
writable (rules R80, R84). -/
def writeLocation (s : State) (value : Word) : Location → Option State
  | .register offset =>
    match offset with
    | 0x04 => some (s.writeCmd value)
    | 0x0C => some { s with cfg := Selection.ofWord value }
    | 0x10 => some { s with cwlen := value.extractLsb' 0 13 }
    | _ => none
  | .cw j => some { s with cw := Memory.set s.cw j (value.extractLsb' 0 8) }
  | .cap _ _ | .out _ | .work _ | .cand _ | .tpl _ _ | .grid _ _ | .seq _ => none

/-- `MemWrite(addr, width, value)`: the state after it, or `none` when the access is refused, which it always is while
`STATUS.BUSY = 1` (rules R34, R85). -/
def memWrite (s : State) (addr : BitVec 20) (width : Nat) (value : Word) : Option State :=
  match locationOf addr width with
  | none => none
  | some loc => if s.status.busy then none else writeLocation s value loc

/-! ### The bus -/

/-- The bus's answer to the last access. -/
def State.answered (s : State) (a : BusAnswer) : State := { s with port := { s.port with answer := some a } }

/-- A host read: the bus answers with the value or with its error response (rule R82). -/
def hostRead (s : State) (addr : BitVec 20) (width : Nat) : State :=
  match memRead s addr width with
  | some v => s.answered (.data v)
  | none => s.answered .refused

/-- A host write: "a refused access changes no state of QRGP whatever" (rule R82). -/
def hostWrite (s : State) (addr : BitVec 20) (width : Nat) (value : Word) : State :=
  match memWrite s addr width value with
  | some t => t.answered .stored
  | none => s.answered .refused

/-- The events still to come. -/
def State.withEvents (s : State) (es : List Event) : State := { s with port := { s.port with events := es } }

end Sys2Proof.Machine
end

