-- ==== Sys2Proof/Machine/Grid.lean ====
section
/-! DEFINITION. The grid planner commands `GP.*` (`40_grid_planner.md`). Each step is the list of its `paint`s in the order
of the rule's loops, and the `GPSTEP` it ends with. -/

namespace Sys2Proof.Machine

/-! ### `GP.INIT` (rule R121) -/

/-- "every byte 0 .. STRIDE*SIDE-1 of bank TPL[k] <- 0x00" for `k` in `0..n-1`. -/
def clearTemplates (n len : Nat) (tpl : Templates) : Templates :=
  (List.range n).foldl
    (fun t k => t.setIfInBounds k (Memory.writeList (t[k]?.getD []) (List.replicate len 0))) tpl

/-- The effect of `GP.INIT n` (rule R121): the plan registers latched or zeroed, the grid and `n` templates cleared. -/
def gpInit (n : Nat) (s : State) : State :=
  let v := s.cfg.version
  let side := 17 + 4 * v.toNat
  let stride := (side + 7) / 8
  { s with
    status := s.status.planStarted
    plan := { PlanRegs.zero with
      plancfg := ⟨v, 0, 0⟩, side := .ofNat 32 side, stride := .ofNat 32 stride, ncopy := .ofNat 32 n }
    grid := clearGrid side s.grid
    tpl := clearTemplates n (stride * side) s.tpl }

/-- `GP.INIT n` (op 0x10, rule R121). -/
def execGpInit (n : Nat) (s : State) : Host.Outcome State Fault Refusal :=
  runCommand s true (legalVersion s && legalCopies n) true fun s => .done (gpInit n s)

/-! ### The six steps -/

/-- The precondition of a grid step: `GRID_INIT = 1` and `GPSTEP = k` (rule R108). -/
def atStep (k : Fin 7) (s : State) : Bool := s.status.gridInit && s.status.gpstep == k

/-- The effect of a grid step: its paints, and `GPSTEP <- k`. -/
def gridStep (ps : List Paint) (k : Fin 7) (s : State) : State :=
  let t := s.paintAll ps
  { t with status := { t.status with gpstep := k } }

/-- The paints of `GP.TIMING` (rule R122). -/
def timingPaints (side : Nat) : List Paint :=
  (List.range side).flatMap fun i =>
    [⟨i, 6, .timing, 0, i % 2 == 0⟩, ⟨6, i, .timing, 0, i % 2 == 0⟩]

/-- The effect of `GP.TIMING`. -/
def gpTiming (s : State) : State := gridStep (timingPaints s.side) 1 s

/-- `GP.TIMING` (op 0x11, rule R122). -/
def execGpTiming (s : State) : Host.Outcome State Fault Refusal :=
  runCommand s (atStep 0 s) true true fun s => .done (gpTiming s)

/-- `findercolour(dr, dc)`, rule R124. -/
def finderColour (dr dc : Int) : Bool :=
  (decide (0 ≤ dr ∧ dr ≤ 6 ∧ 0 ≤ dc ∧ dc ≤ 6) && (dr == 0 || dr == 6 || dc == 0 || dc == 6))
    || decide (2 ≤ dr ∧ dr ≤ 4 ∧ 2 ≤ dc ∧ dc ≤ 4)

/-- The offsets `-1..7` of a finder box with its border. -/
def finderSpan : List Int := [-1, 0, 1, 2, 3, 4, 5, 6, 7]

/-- The paints of one finder box whose top-left cell is `(r0, c0)`: its 7×7 cells and the border where in-bounds. -/
def finderBox (side : Nat) (r0 c0 : Int) : List Paint :=
  finderSpan.flatMap fun dr => finderSpan.filterMap fun dc =>
    let r := r0 + dr
    let c := c0 + dc
    if 0 ≤ r ∧ r < side ∧ 0 ≤ c ∧ c < side then some ⟨r.toNat, c.toNat, .position, 0, finderColour dr dc⟩ else none

/-- The paints of `GP.FINDER` (rule R123). -/
def finderPaints (side : Nat) : List Paint :=
  finderBox side 0 0 ++ finderBox side 0 (side - 7) ++ finderBox side (side - 7) 0

/-- The effect of `GP.FINDER`. -/
def gpFinder (s : State) : State := gridStep (finderPaints s.side) 2 s

/-- `GP.FINDER` (op 0x12, rule R123). -/
def execGpFinder (s : State) : Host.Outcome State Fault Refusal :=
  runCommand s (atStep 1 s) true true fun s => .done (gpFinder s)

/-- The loop of `aligncoords()` (rule R126) from `a` on; `none` when `fuel` rounds do not end it. -/
def alignLoop (e : CapEntry) (side : Nat) : Nat → Nat → Option (List Nat)
  | 0, _ => none
  | fuel + 1, a =>
    if a + 5 < side then
      (alignLoop e side fuel (if a = 4 then e.apos.toNat else a + e.astride.toNat)).map (a :: ·)
    else some []

/-- `aligncoords()` (rule R126). A loop that ends meets each value below `side` at most once, so `side + 1` rounds are
enough for it: `none` says that the loop does not end. -/
def alignCoords (e : CapEntry) (side : Nat) : Option (List Nat) := alignLoop e side (side + 1) 4

/-- `skipalign(r0, c0)` (rule R125). -/
def skipAlign (side r0 c0 : Nat) : Bool :=
  decide (c0 < 7 ∧ r0 < 7) || decide (c0 < 7 ∧ r0 + 5 ≥ side - 7) || decide (c0 + 5 ≥ side - 7 ∧ r0 < 7)

/-- The colour of a cell of an alignment box (rule R125). -/
def alignColour (dr dc : Nat) : Bool := dr == 0 || dr == 4 || dc == 0 || dc == 4 || (dr == 2 && dc == 2)

/-- The paints of one alignment box whose top-left cell is `(r0, c0)`. -/
def alignBox (r0 c0 : Nat) : List Paint :=
  (List.range 5).flatMap fun dr => (List.range 5).map fun dc =>
    ⟨r0 + dr, c0 + dc, .alignment, 0, alignColour dr dc⟩

/-- The paints of `GP.ALIGN` over the coordinates `coords` (rule R125). -/
def alignPaints (side : Nat) (coords : List Nat) : List Paint :=
  coords.flatMap fun c0 => coords.flatMap fun r0 =>
    if skipAlign side r0 c0 then [] else alignBox r0 c0

/-- The effect of `GP.ALIGN`; a loop that does not end is the stuck state of U12 (log entry 5). -/
def gpAlign (s : State) : Effect :=
  match alignCoords s.capEntry s.side with
  | some coords => .done (gridStep (alignPaints s.side coords) 3 s)
  | none => .stuck .alignLoopEndless

/-- `GP.ALIGN` (op 0x13, rules R125, R126). -/
def execGpAlign (s : State) : Host.Outcome State Fault Refusal :=
  runCommand s (atStep 2 s) true true gpAlign

/-- The paints of `GP.VERINFO` (rule R127). -/
def verinfoPaints (side version : Nat) (vpat : BitVec 18) : List Paint :=
  if 7 ≤ version then
    (List.range 18).flatMap fun i =>
      let x := i / 3
      let y := i % 3
      [⟨side - 11 + y, x, .versionPattern, 0, vpat.getLsbD i⟩, ⟨x, side - 11 + y, .versionPattern, 0, vpat.getLsbD i⟩]
  else []

/-- The effect of `GP.VERINFO`. -/
def gpVerinfo (s : State) : State :=
  gridStep (verinfoPaints s.side s.plan.plancfg.version.toNat s.capEntry.vpat) 4 s

/-- `GP.VERINFO` (op 0x14, rule R127). -/
def execGpVerinfo (s : State) : Host.Outcome State Fault Refusal :=
  runCommand s (atStep 3 s) true true fun s => .done (gpVerinfo s)

/-- `fmtA(i)`, rule R129. -/
def fmtA (i : Nat) : Nat × Nat :=
  if i < 6 then (i, 8) else if i < 8 then (i + 1, 8) else if i = 8 then (8, 7) else (8, 14 - i)

/-- `fmtB(i)`, rule R129. -/
def fmtB (side i : Nat) : Nat × Nat := if i < 8 then (8, side - 1 - i) else (side - 15 + i, 8)

/-- The paints of `GP.FMTRSV` (rule R128). -/
def fmtrsvPaints (side : Nat) : List Paint :=
  (List.range 15).flatMap fun i =>
    [⟨(fmtA i).1, (fmtA i).2, .format, i, false⟩, ⟨(fmtB side i).1, (fmtB side i).2, .format, i, false⟩]

/-- The effect of `GP.FMTRSV`. -/
def gpFmtrsv (s : State) : State := gridStep (fmtrsvPaints s.side) 5 s

/-- `GP.FMTRSV` (op 0x15, rule R128). -/
def execGpFmtrsv (s : State) : Host.Outcome State Fault Refusal :=
  runCommand s (atStep 4 s) true true fun s => .done (gpFmtrsv s)

/-- The paint of `GP.DARK` (rule R130). -/
def darkPaints (side : Nat) : List Paint := [⟨side - 8, 8, .unused, 0, true⟩]

/-- The effect of `GP.DARK`. -/
def gpDark (s : State) : State := gridStep (darkPaints s.side) 6 s

/-- `GP.DARK` (op 0x16, rule R130). -/
def execGpDark (s : State) : Host.Outcome State Fault Refusal :=
  runCommand s (atStep 5 s) true true fun s => .done (gpDark s)

/-! ### `GP.ALL` (rule R131) -/

/-- The effects of `GP.INIT n`, `GP.TIMING`, `GP.FINDER`, `GP.ALIGN`, `GP.VERINFO`, `GP.FMTRSV`, `GP.DARK` in that
order. -/
def gpAll (n : Nat) (s : State) : Effect :=
  (gpAlign (gpFinder (gpTiming (gpInit n s)))).andThen fun t => .done (gpDark (gpFmtrsv (gpVerinfo t)))

/-- `GP.ALL n` (op 0x17, rule R131). -/
def execGpAll (n : Nat) (s : State) : Host.Outcome State Fault Refusal :=
  runCommand s true (legalVersion s && legalCopies n) true (gpAll n)

end Sys2Proof.Machine
end

