-- ==== Sys2Proof/Machine/Layout.lean ====
section
/-! DEFINITION. The block layout commands `BL.*` (`41_block_layout.md`). -/

namespace Sys2Proof.Machine

/-- The plan is open: `LAYOUT_OK = 0` and `PLAN_OK = 0` (rule R108). -/
def layoutOpen (s : State) : Bool := !s.status.layoutOk && !s.status.planOk

/-! ### `BL.PARAM` (rule R141) -/

/-- The effect of `BL.PARAM`: the block sizes of `CFG.LEVEL`, or `Fatal(TableDefect)`. -/
def blParam (s : State) : Effect :=
  let l := s.cfg.level
  let e := s.capEntry
  let nb := (levelTuple e l.toNat).nb.toNat
  let ne := (levelTuple e l.toNat).ne.toNat
  let bytes := e.bytes.toNat
  if nb = 0 ∨ ne * nb ≥ bytes then .fatal .tableDefect
  else
    .done { s with
      status := s.status.paramsComputed
      plan := { s.plan with
        plancfg := { s.plan.plancfg with level := l }
        nb := .ofNat 32 nb
        ne := .ofNat 32 ne
        databytes := .ofNat 32 (bytes - ne * nb)
        checkbytes := .ofNat 32 (ne * nb)
        nde := .ofNat 32 ((bytes - ne * nb) / nb)
        extra := .ofNat 32 ((bytes - ne * nb) % nb) } }

/-- `BL.PARAM` (op 0x20, rule R141). -/
def execBlParam (s : State) : Host.Outcome State Fault Refusal :=
  runCommand s (s.status.gridInit && layoutOpen s) (legalLevel s) true blParam

/-! ### `BL.ILV` (rules R142, R143) -/

/-- `len(b)`, the number of data bytes of block `b` (rule R142). -/
def blockLen (p : PlanRegs) (b : Nat) : Nat :=
  if b ≥ p.nb.toNat - p.extra.toNat then p.nde.toNat + 1 else p.nde.toNat

/-- `start(b)`, the first data byte of block `b` (rule R142). -/
def blockStart (p : PlanRegs) (b : Nat) : Nat := b * p.nde.toNat + (b - (p.nb.toNat - p.extra.toNat))

/-- The eight entries of byte `index` of the stream. -/
def byteEntries (role : Role) (index : Nat) : List Cell :=
  (List.range 8).map fun t => ⟨role, .ofNat 15 (8 * index + t)⟩

/-- The data entries: byte `i` of every block in order, blocks too short for byte `i` skipped. -/
def dataEntries (p : PlanRegs) : List Cell :=
  (List.range (p.nde.toNat + 1)).flatMap fun i => (List.range p.nb.toNat).flatMap fun b =>
    if i < blockLen p b then byteEntries .data (blockStart p b + i) else []

/-- The check entries, by byte index across blocks. -/
def checkEntries (p : PlanRegs) : List Cell :=
  (List.range p.ne.toNat).flatMap fun i => (List.range p.nb.toNat).flatMap fun b =>
    byteEntries .check (p.databytes.toNat + b * p.ne.toNat + i)

/-- The seven filler entries. -/
def extraEntries (p : PlanRegs) : List Cell :=
  (List.range 7).map fun j => ⟨.extra, .ofNat 15 (8 * (p.databytes.toNat + p.checkbytes.toNat) + j)⟩

/-- The whole interleaved sequence. -/
def interleaved (p : PlanRegs) : List Cell := dataEntries p ++ checkEntries p ++ extraEntries p

/-- The effect of `BL.ILV`. -/
def blIlv (s : State) : State :=
  { s with
    status := { s.status with seqOk := true }
    plan := { s.plan with seqlen := .ofNat 32 (interleaved s.plan).length }
    seq := Memory.writeList s.seq (interleaved s.plan) }

/-- `BL.ILV` (op 0x21, rule R143). -/
def execBlIlv (s : State) : Host.Outcome State Fault Refusal :=
  runCommand s (s.status.paramOk && layoutOpen s) true true fun s => .done (blIlv s)

/-! ### `BL.SWEEP` (rules R144, R145) -/

/-- The column pairs of the sweep from `x` on, each with its direction: the pair `x` is the columns `x-1` and `x-2`
(rule R144). `fuel` bounds the number of pairs. -/
def sweepPairs : Nat → Nat → Bool → List (Nat × Bool)
  | 0, _, _ => []
  | fuel + 1, x, up =>
    if 0 < x then (x, up) :: sweepPairs fuel (if x - 2 = 7 then 6 else x - 2) (!up) else []

/-- The rows of a pair, bottom to top or top to bottom. -/
def sweepRows (side : Nat) (up : Bool) : List Nat := if up then (List.range side).reverse else List.range side

/-- `sweeporder()` (rule R144): within a row the right column first, then the left. -/
def sweepOrder (side : Nat) : List (Nat × Nat) :=
  (sweepPairs side side true).flatMap fun p =>
    (sweepRows side p.2).flatMap fun y => [(y, p.1 - 1), (y, p.1 - 2)]

/-- The loop of rule R145 over the cells `visits`, with `p` entries consumed: the grid and the number of entries consumed
at the end, or `none` when a free cell finds no entry. -/
def sweepLoop (s : State) : List (Nat × Nat) → Memory Cell → Nat → Option (Memory Cell × Nat)
  | [], grid, p => some (grid, p)
  | (r, c) :: visits, grid, p =>
    if ({ s with grid := grid }.cell r c).role = .unassigned then
      if p ≥ s.plan.seqlen.toNat then none
      else sweepLoop s visits (Memory.set grid (cellIndex r c) (s.entry p)) (p + 1)
    else sweepLoop s visits grid p

/-- The effect of `BL.SWEEP`: the grid filled from `SEQ`, or `Fatal(SweepMismatch)` when a free cell finds no entry or a
Data or Check entry finds no cell. -/
def blSweep (s : State) : Effect :=
  match sweepLoop s (sweepOrder s.side) s.grid 0 with
  | none => .fatal .sweepMismatch
  | some (grid, p) =>
    if p < 8 * (s.plan.databytes.toNat + s.plan.checkbytes.toNat) then .fatal .sweepMismatch
    else
      .done { s with
        status := { s.status with layoutOk := true }
        plan := { s.plan with freecnt := .ofNat 32 p }
        grid := grid }

/-- `BL.SWEEP` (op 0x22, rule R145). -/
def execBlSweep (s : State) : Host.Outcome State Fault Refusal :=
  runCommand s (s.status.gridOk && s.status.seqOk && layoutOpen s) true true blSweep

/-! ### `BL.ALL` (rule R147) -/

/-- The effects of `BL.PARAM`, `BL.ILV`, `BL.SWEEP` in that order. -/
def blAll (s : State) : Effect := (blParam s).andThen fun t => blSweep (blIlv t)

/-- `BL.ALL` (op 0x23, rule R147). -/
def execBlAll (s : State) : Host.Outcome State Fault Refusal :=
  runCommand s (s.status.gridOk && layoutOpen s) (legalLevel s) true blAll

end Sys2Proof.Machine
end

