-- ==== Sys2Proof/Machine/Format.lean ====
section
/-! DEFINITION. The format-info commands `FI.*` (`42_format_info.md`). -/

namespace Sys2Proof.Machine

/-- One round of the long division of rule R156: if bit `i` of the remainder is 1, `0x537` with its top bit lined up with
bit `i` is subtracted. -/
def bchRound (rem : BitVec 15) (i : Nat) : BitVec 15 := if rem.getLsbD i then rem ^^^ (0x537 <<< (i - 10)) else rem

/-- The format word of a level and a mask (rule R156). -/
def formatWord (level : BitVec 4) (m : Nat) : BitVec 15 :=
  let lc : BitVec 15 := (level ^^^ 1).setWidth 15
  let raw : BitVec 15 := (lc <<< 13) ||| (BitVec.ofNat 15 m <<< 10)
  let rem := [14, 13, 12, 11, 10].foldl bchRound raw
  (raw ||| rem) ^^^ 0x5412

/-- The effect of `FI.ENC m`: "the level is `PLANCFG.LEVEL` … the mask is the command operand `m`" (rule R155). -/
def fiEnc (m : Nat) (s : State) : State :=
  { s with
    status := { s.status with fmtOk := true }
    plan := { s.plan with fmtword := formatWord s.plan.plancfg.level m } }

/-- `FI.ENC m` (op 0x30, rule R156). -/
def execFiEnc (m : Nat) (s : State) : Host.Outcome State Fault Refusal :=
  runCommand s (s.status.paramOk && !s.status.planOk) (legalMask m) true fun s => .done (fiEnc m s)

/-- The effect of `FI.PAINT k` (rule R157): bit `i` of `FMTWORD` is written, not XORed, at `fmtA(i)` and `fmtB(i)`. -/
def fiPaint (k : Nat) (s : State) : State :=
  (List.range 15).foldl
    (fun t i =>
      let bit := s.plan.fmtword.getLsbD i
      (t.setTplPixel k (fmtA i).1 (fmtA i).2 bit).setTplPixel k (fmtB s.side i).1 (fmtB s.side i).2 bit) s

/-- `FI.PAINT k` (op 0x31, rule R157). -/
def execFiPaint (k : Nat) (s : State) : Host.Outcome State Fault Refusal :=
  runCommand s (s.status.gridOk && s.status.fmtOk && !s.status.planOk) true (legalTemplate k s)
    fun s => .done (fiPaint k s)

/-- The effects of `FI.ENC m` followed by `FI.PAINT k` (rule R158). -/
def fiPlan (m k : Nat) (s : State) : State := fiPaint k (fiEnc m s)

/-- `FI.PLAN m, k` (op 0x32, rule R158). -/
def execFiPlan (m k : Nat) (s : State) : Host.Outcome State Fault Refusal :=
  runCommand s (s.status.gridOk && s.status.paramOk && !s.status.planOk) (legalMask m) (legalTemplate k s)
    fun s => .done (fiPlan m k s)

end Sys2Proof.Machine
end

