-- ==== Sys2Proof/Machine/Mask.lean ====
section
/-! DEFINITION. The mask command `MK.APPLY` (`43_mask.md`). -/

namespace Sys2Proof.Machine

/-- `mask(m, r, c)`, rule R165. -/
def mask (m r c : Nat) : Bool :=
  match m with
  | 0 => (r + c) % 2 == 0
  | 1 => r % 2 == 0
  | 2 => c % 3 == 0
  | 3 => (r + c) % 3 == 0
  | 4 => (r / 2 + c / 3) % 2 == 0
  | 5 => (r * c) % 2 + (r * c) % 3 == 0
  | 6 => ((r * c) % 2 + (r * c) % 3) % 2 == 0
  | 7 => ((r * c) % 3 + (r + c) % 2) % 2 == 0
  | _ => false

/-- The roles a mask flips: Data, Check, Extra (rule R166). -/
def Role.masked : Role → Bool
  | .data | .check | .extra => true
  | .unassigned | .position | .alignment | .timing | .format | .versionPattern | .unused => false

/-- The effect of `MK.APPLY m, k` (rule R166). -/
def mkApply (m k : Nat) (s : State) : State :=
  (coordinates s.side).foldl
    (fun t p =>
      if Role.masked (s.cell p.1 p.2).role && mask m p.1 p.2 then
        t.setTplPixel k p.1 p.2 (t.tplPixel k p.1 p.2 ^^ true)
      else t) s

/-- `MK.APPLY m, k` (op 0x40, rule R166). -/
def execMkApply (m k : Nat) (s : State) : Host.Outcome State Fault Refusal :=
  runCommand s (s.status.layoutOk && !s.status.planOk) (legalMask m) (legalTemplate k s)
    fun s => .done (mkApply m k s)

end Sys2Proof.Machine
end

