-- ==== Sys2Proof/Machine/Penalty.lean ====
section
/-! DEFINITION. The penalty scorer commands `PS.*` (`44_penalty.md`): the four terms as functions of the side `S` and the
modules `B[r][c]`, and the commands that score `CAND`, `OUT` or `WORK`. -/

namespace Sys2Proof.Machine

/-! ### Lines (rule R171) -/

/-- A bitmap as its modules, `true` black. -/
abbrev Modules := Nat → Nat → Bool

/-- Row `r`, left to right. -/
def rowLine (side : Nat) (b : Modules) (r : Nat) : List Bool := (List.range side).map fun c => b r c

/-- Column `c`, top to bottom. -/
def columnLine (side : Nat) (b : Modules) (c : Nat) : List Bool := (List.range side).map fun r => b r c

/-- The rows, then the columns. -/
def lines (side : Nat) (b : Modules) : List (List Bool) :=
  (List.range side).map (rowLine side b) ++ (List.range side).map (columnLine side b)

/-! ### The run term (rule R172) -/

/-- A maximal run of length `n` adds `n − 2` when `n ≥ 5`. -/
def runPoints (n : Nat) : Nat := if 5 ≤ n then n - 2 else 0

/-- The runs of a line, the current one having colour `colour` and length `n` so far. -/
def runFrom (colour : Bool) (n : Nat) : List Bool → Nat
  | [] => runPoints n
  | x :: xs => if x = colour then runFrom colour (n + 1) xs else runPoints n + runFrom x 1 xs

/-- The run term of one line. -/
def lineRun : List Bool → Nat
  | [] => 0
  | x :: xs => runFrom x 1 xs

/-- `run(B)`. -/
def runTerm (side : Nat) (b : Modules) : Nat := ((lines side b).map lineRun).sum

/-! ### The box term (rule R173) -/

/-- The 2×2 block whose lower right cell is `(r, c)` has one colour. -/
def isBox (b : Modules) (r c : Nat) : Bool :=
  b r c == b (r - 1) c && b r c == b r (c - 1) && b r c == b (r - 1) (c - 1)

/-- The numbers `1..S-1`. -/
def interior (side : Nat) : List Nat := (List.range (side - 1)).map (· + 1)

/-- `box(B)`. -/
def boxTerm (side : Nat) (b : Modules) : Nat :=
  ((interior side).map fun r => ((interior side).map fun c => if isBox b r c then 3 else 0).sum).sum

/-! ### The finder term (rules R174 to R177) -/

/-- Pattern `P1`, `0000 1011101 0` (rule R175). -/
def patternP1 : List Bool :=
  [false, false, false, false, true, false, true, true, true, false, true, false]

/-- Pattern `P2`, `0 1011101 0000` (rule R175). -/
def patternP2 : List Bool :=
  [false, true, false, true, true, true, false, true, false, false, false, false]

/-- `X[j]`: the line extended with white beyond both ends (rule R176). -/
def extended (line : List Bool) (j : Int) : Bool := if 0 ≤ j then line.getD j.toNat false else false

/-- The modules from `start` on are those of the pattern. -/
def matchesAt (line : List Bool) (start : Int) : List Bool → Bool
  | [] => true
  | p :: ps => extended line start == p && matchesAt line (start + 1) ps

/-- The whole numbers `lo..hi`; none when `hi < lo`. -/
def intRange (lo hi : Int) : List Int := (List.range (hi - lo + 1).toNat).map fun i => lo + (i : Int)

/-- The window of `P1` in a line of length `side` (rule R176 for `core9`, rule R177 for `core7`). -/
def windowP1 (edge : FinderEdge) (side : Nat) : List Int :=
  match edge with
  | .core9 => intRange (-3) (side - 12)
  | .core7 => intRange (-4) (side - 11)

/-- The window of `P2`. -/
def windowP2 (edge : FinderEdge) (side : Nat) : List Int :=
  match edge with
  | .core9 => intRange 0 (side - 9)
  | .core7 => intRange (-1) (side - 8)

/-- The finder term of one line: 40 for every occurrence of either pattern. -/
def lineFind (edge : FinderEdge) (line : List Bool) : Nat :=
  ((windowP1 edge line.length).map fun start => if matchesAt line start patternP1 then 40 else 0).sum
    + ((windowP2 edge line.length).map fun start => if matchesAt line start patternP2 then 40 else 0).sum

/-- `find(B)`. -/
def findTerm (edge : FinderEdge) (side : Nat) (b : Modules) : Nat := ((lines side b).map (lineFind edge)).sum

/-! ### The balance term (rule R178) -/

/-- The number of black modules. -/
def blackCount (side : Nat) (b : Modules) : Nat :=
  ((List.range side).map fun r => (rowLine side b r).count true).sum

/-- The balance term of a bitmap of `total` modules, `black` of them black. -/
def balanceOf (total black : Nat) : Nat := (9 - min black (total - black) * 20 / total) * 10

/-- `bal(B)`. -/
def balTerm (side : Nat) (b : Modules) : Nat := balanceOf (side * side) (blackCount side b)

/-- `penalty(B)` (rule R180). -/
def penalty (edge : FinderEdge) (side : Nat) (b : Modules) : Nat :=
  runTerm side b + boxTerm side b + findTerm edge side b + balTerm side b

/-! ### The bitmap scored (rule R170) -/

/-- The side of a source: `SIDE`, or `CODESIDE` for `OUT`. -/
def sourceSide (src : Source) (s : State) : Nat :=
  match src with
  | .cand => s.side
  | .out => s.code.side.toNat
  | .work => s.side

/-- The modules of a source. -/
def sourceModules (src : Source) (s : State) : Modules :=
  match src with
  | .cand => s.candPixel
  | .out => s.outPixel
  | .work => s.workPixel

/-! ### The commands -/

/-- The common frame of the `PS.*` commands: the precondition and operand check of rule R170, then the effect on the
source. A `src` that names no source has been rejected before the effect. -/
def scoreCommand (src : Nat) (effect : Source → State → State) (s : State) : Host.Outcome State Fault Refusal :=
  runCommand s (sourceReady src s) true (legalSource src) fun s =>
    .done (match sourceOf src with
      | some b => effect b s
      | none => s)

/-- `PEN_OK <- 0`. -/
def State.staleTotal (s : State) : State := { s with status := { s.status with penOk := false } }

/-- The effect of `PS.RUN`. -/
def psRun (b : Source) (s : State) : State :=
  { s with pen := { s.pen with run := .ofNat 32 (runTerm (sourceSide b s) (sourceModules b s)) } }.staleTotal

/-- `PS.RUN src` (op 0x50, rule R172). -/
def execPsRun (src : Nat) (s : State) : Host.Outcome State Fault Refusal := scoreCommand src psRun s

/-- The effect of `PS.BOX`. -/
def psBox (b : Source) (s : State) : State :=
  { s with pen := { s.pen with box := .ofNat 32 (boxTerm (sourceSide b s) (sourceModules b s)) } }.staleTotal

/-- `PS.BOX src` (op 0x51, rule R173). -/
def execPsBox (src : Nat) (s : State) : Host.Outcome State Fault Refusal := scoreCommand src psBox s

/-- The effect of `PS.FIND`. -/
def psFind (b : Source) (s : State) : State :=
  { s with pen := { s.pen with
      find := .ofNat 32 (findTerm s.config.finderEdge (sourceSide b s) (sourceModules b s)) } }.staleTotal

/-- `PS.FIND src` (op 0x52, rule R174). -/
def execPsFind (src : Nat) (s : State) : Host.Outcome State Fault Refusal := scoreCommand src psFind s

/-- The effect of `PS.BAL`. -/
def psBal (b : Source) (s : State) : State :=
  { s with pen := { s.pen with bal := .ofNat 32 (balTerm (sourceSide b s) (sourceModules b s)) } }.staleTotal

/-- `PS.BAL src` (op 0x53, rule R178). -/
def execPsBal (src : Nat) (s : State) : Host.Outcome State Fault Refusal := scoreCommand src psBal s

/-- The effect of `PS.SCORE` (rule R179): the four terms of the same bitmap and their sum. -/
def psScore (b : Source) (s : State) : State :=
  let side := sourceSide b s
  let modules := sourceModules b s
  let run := runTerm side modules
  let box := boxTerm side modules
  let find := findTerm s.config.finderEdge side modules
  let bal := balTerm side modules
  { s with
    status := { s.status with penOk := true }
    pen := { s.pen with
      run := .ofNat 32 run
      box := .ofNat 32 box
      find := .ofNat 32 find
      bal := .ofNat 32 bal
      total := .ofNat 32 (run + box + find + bal) } }

/-- `PS.SCORE src` (op 0x54, rule R179). -/
def execPsScore (src : Nat) (s : State) : Host.Outcome State Fault Refusal := scoreCommand src psScore s

end Sys2Proof.Machine
end

