-- ==== Sys2Proof/Machine/Encode.lean ====
section
/-! DEFINITION. The plan and encode commands `PL.PLAN` and `EN.*` (`45_orchestrator.md`). -/

namespace Sys2Proof.Machine

/-- The number of bytes of one bitmap, `STRIDE·SIDE`. -/
def State.bitmapLen (s : State) : Nat := s.stride * s.side

/-! ### `PL.PLAN` (rule R186) -/

/-- "effects of FI.PLAN m, k; effects of MK.APPLY m, k". -/
def planTemplate (m k : Nat) (s : State) : State := mkApply m k (fiPlan m k s)

/-- The templates of the plan: one for a fixed mask, eight for a search. -/
def planTemplates (s : State) : State :=
  if 0 ≤ requestedMask s then planTemplate (requestedMask s).toNat 0 s
  else (List.range 8).foldl (fun t k => planTemplate k k t) s

/-- "PLANCFG.MASK <- CFG.MASK[3:0]; STATUS.PLAN_OK <- 1". -/
def sealPlan (s : State) : State :=
  { s with
    status := { s.status with planOk := true }
    plan := { s.plan with plancfg := { s.plan.plancfg with mask := s.cfg.mask } } }

/-- The effect of `PL.PLAN`. -/
def plPlan (s : State) : Effect :=
  let n := if 0 ≤ requestedMask s then 1 else 8
  ((gpAll n s).andThen blAll).andThen fun t => .done (sealPlan (planTemplates t))

/-- `PL.PLAN` (op 0x70, rule R186). -/
def execPlPlan (s : State) : Host.Outcome State Fault Refusal :=
  runCommand s true (legalVersion s && legalLevel s && legalRequestedMask s) true plPlan

/-! ### `EN.PLACE` (rule R191) -/

/-- `WORK` before the codeword bits: a copy of `TPL[0]` when `NCOPY = 1`, all white otherwise. -/
def workGround (s : State) : List Byte :=
  (List.range s.bitmapLen).map fun j => if s.ncopy = 1 then s.tplByte 0 j else 0

/-- The roles that carry a codeword bit: Data and Check; "Extra cells get no bit". -/
def Role.carriesBit : Role → Bool
  | .data | .check => true
  | .unassigned | .position | .alignment | .timing | .format | .versionPattern | .unused | .extra => false

/-- `WORK[r][c] <- WORK[r][c] xor bit`. -/
def State.xorWorkPixel (s : State) (r c : Nat) (v : Bool) : State :=
  { s with work := xorPixel s.work (Config.freeByte s.engineStamp workBank) s.stride r c v }

/-- The codeword bits XORed into `WORK`, cell by cell. -/
def placeBits (s : State) : State :=
  (coordinates s.side).foldl
    (fun t p =>
      if Role.carriesBit (s.cell p.1 p.2).role then
        t.xorWorkPixel p.1 p.2 (streamBit s.cwByte (s.cell p.1 p.2).off.toNat)
      else t) s

/-- The effect of `EN.PLACE`. -/
def enPlace (s : State) : Effect :=
  if s.cwlen.toNat ≠ s.capEntry.bytes.toNat then .fatal .byteCountMismatch
  else
    let t := placeBits { s with work := Memory.writeList s.work (workGround s) }
    .done { t with status := t.status.placed }

/-- `EN.PLACE` (op 0x60, rule R191). -/
def execEnPlace (s : State) : Host.Outcome State Fault Refusal :=
  runCommand s s.status.layoutOk true true enPlace

/-! ### `EN.CAND` and `EN.KEEP` (rules R192, R193) -/

/-- The effect of `EN.CAND k`: `CAND[j] <- WORK[j] xor TPL[k][j]` for every byte of the bitmap. -/
def enCand (k : Nat) (s : State) : State :=
  { s with
    status := s.status.candidateMade
    pen := { s.pen with candmask := .ofNat 3 k }
    cand := Memory.writeList s.cand ((List.range s.bitmapLen).map fun j => s.workByte j ^^^ s.tplByte k j) }

/-- `EN.CAND k` (op 0x61, rule R192). -/
def execEnCand (k : Nat) (s : State) : Host.Outcome State Fault Refusal :=
  runCommand s (s.status.workOk && s.ncopy == 8) true (legalTemplate k s) fun s => .done (enCand k s)

/-- `OUT <- CAND` (`STRIDE·SIDE` bytes). -/
def State.copyCand (s : State) : State :=
  { s with out := Memory.writeList s.out ((List.range s.bitmapLen).map s.candByte) }

/-- `OUT <- WORK` (`STRIDE·SIDE` bytes). -/
def State.copyWork (s : State) : State :=
  { s with out := Memory.writeList s.out ((List.range s.bitmapLen).map s.workByte) }

/-- `CODESIDE <- SIDE; CODESTRIDE <- STRIDE; STATUS.CODE_OK <- 1`. -/
def State.latchCode (s : State) : State :=
  { s with status := { s.status with codeOk := true }, code := ⟨s.plan.side, s.plan.stride⟩ }

/-- The effect of `EN.KEEP`. -/
def enKeep (s : State) : State :=
  { s.copyCand.latchCode with pen := { s.pen with bestmask := s.pen.candmask } }

/-- `EN.KEEP` (op 0x62, rule R193). -/
def execEnKeep (s : State) : Host.Outcome State Fault Refusal :=
  runCommand s s.status.candOk true true fun s => .done (enKeep s)

/-! ### `EN.SELECT` (rule R194) -/

/-- `PENM[k]`. -/
def State.penm (s : State) (k : Nat) : Word := s.pen.penm[k]?.getD 0

/-- One turn of the search, for candidate `k`: `EN.CAND k`, `PS.SCORE CAND`, `PENM[k] <- PEN_TOTAL`, and the candidate kept
when it is the first or strictly lower than the best so far. -/
def searchTurn (acc : State × Option Nat) (k : Nat) : State × Option Nat :=
  let t := psScore .cand (enCand k acc.1)
  let u := { t with pen := { t.pen with penm := t.pen.penm.setIfInBounds k t.pen.total } }
  match acc.2 with
  | none => (u.copyCand, some k)
  | some best => if u.pen.total < u.penm best then (u.copyCand, some k) else (u, some best)

/-- The search of `EN.SELECT`. -/
def search (s : State) : State :=
  let r := (List.range 8).foldl searchTurn (s, none)
  let t := r.1.latchCode
  { t with
    status := { t.status with candOk := true, penOk := true }
    pen := { t.pen with bestmask := .ofNat 3 (r.2.getD 0) } }

/-- The effect of `EN.SELECT`. -/
def enSelect (s : State) : State :=
  if s.ncopy = 1 then s.copyWork.latchCode.staleTotal else search s

/-- `EN.SELECT` (op 0x63, rule R194). -/
def execEnSelect (s : State) : Host.Outcome State Fault Refusal :=
  runCommand s s.status.workOk true true fun s => .done (enSelect s)

/-! ### `EN.ENCODE` (rule R195) -/

/-- The effects of `EN.PLACE` then of `EN.SELECT`. -/
def enEncode (s : State) : Effect := (enPlace s).andThen fun t => .done (enSelect t)

/-- `EN.ENCODE` (op 0x64, rule R195). -/
def execEnEncode (s : State) : Host.Outcome State Fault Refusal :=
  runCommand s s.status.layoutOk true true enEncode

end Sys2Proof.Machine
end

