-- ==== Sys2Proof/Machine/System.lean ====
section
/-! DEFINITION. The system commands `NOP` and `RESET` (`46_system.md`). -/

namespace Sys2Proof.Machine

/-- `NOP` (rule R200): no precondition, no effect but the end of every command. -/
def execNop (s : State) : Host.Outcome State Fault Refusal := runCommand s true true true .done

/-- `RESET` (rule R201): no check, also while `FATAL = 1` (rule R212, test 1); the reset event, which leaves
`STATUS.ERR = 0` and `STATUS.BUSY = 0`. -/
def execReset (s : State) : Host.Outcome State Fault Refusal := .next s.resetEvent

end Sys2Proof.Machine
end

