-- ==== Sys2Proof/Machine/Dispatch.lean ====
section
/-! DEFINITION. The meaning of each command: one arm per constructor, one direct call each. -/

namespace Sys2Proof.Machine

def exec (i : Instr) (s : State) : Host.Outcome State Fault Refusal :=
  match i with
  | .nop => Sys2Proof.Machine.execNop s
  | .reset => Sys2Proof.Machine.execReset s
  | .gpInit n => Sys2Proof.Machine.execGpInit n s
  | .gpTiming => Sys2Proof.Machine.execGpTiming s
  | .gpFinder => Sys2Proof.Machine.execGpFinder s
  | .gpAlign => Sys2Proof.Machine.execGpAlign s
  | .gpVerinfo => Sys2Proof.Machine.execGpVerinfo s
  | .gpFmtrsv => Sys2Proof.Machine.execGpFmtrsv s
  | .gpDark => Sys2Proof.Machine.execGpDark s
  | .gpAll n => Sys2Proof.Machine.execGpAll n s
  | .blParam => Sys2Proof.Machine.execBlParam s
  | .blIlv => Sys2Proof.Machine.execBlIlv s
  | .blSweep => Sys2Proof.Machine.execBlSweep s
  | .blAll => Sys2Proof.Machine.execBlAll s
  | .fiEnc m => Sys2Proof.Machine.execFiEnc m s
  | .fiPaint k => Sys2Proof.Machine.execFiPaint k s
  | .fiPlan m k => Sys2Proof.Machine.execFiPlan m k s
  | .mkApply m k => Sys2Proof.Machine.execMkApply m k s
  | .psRun src => Sys2Proof.Machine.execPsRun src s
  | .psBox src => Sys2Proof.Machine.execPsBox src s
  | .psFind src => Sys2Proof.Machine.execPsFind src s
  | .psBal src => Sys2Proof.Machine.execPsBal src s
  | .psScore src => Sys2Proof.Machine.execPsScore src s
  | .enPlace => Sys2Proof.Machine.execEnPlace s
  | .enCand k => Sys2Proof.Machine.execEnCand k s
  | .enKeep => Sys2Proof.Machine.execEnKeep s
  | .enSelect => Sys2Proof.Machine.execEnSelect s
  | .enEncode => Sys2Proof.Machine.execEnEncode s
  | .plPlan => Sys2Proof.Machine.execPlPlan s

end Sys2Proof.Machine
end

