-- ==== Sys2Proof/Machine/Step.lean ====
section
/-! DEFINITION. One step of QRGP: the next event at its boundary, a host access, a hardware reset, or the engine's turn. -/

namespace Sys2Proof.Machine

/-- The engine's turn (rule R103): when `BUSY = 1` it takes `w = PENDING` and runs it whole; otherwise it is idle and "all
state is kept" (rules R229, R245). -/
def engineStep (s : State) : Host.Outcome State Fault Refusal :=
  if s.status.busy then
    match decode s.pending with
    | .ok i => exec i s
    | .error _ => .next s.illegalCommand
  else .next s

/-- One step: "host accesses take effect one at a time in the order the host issues them; the engine's execution of a
command is one indivisible step" (rule R90). The event list is the interleaving; when it is empty it is the engine's
turn. -/
def step (s : State) : Host.Outcome State Fault Refusal :=
  match s.port.events with
  | [] => engineStep s
  | .engine :: es => engineStep (s.withEvents es)
  | .read addr width :: es => .next (hostRead (s.withEvents es) addr width)
  | .write addr width value :: es => .next (hostWrite (s.withEvents es) addr width value)
  | .hardReset :: es => .next (s.withEvents es).resetEvent

/-- The state in which the very next step runs the command of a table row: the word in `PENDING`, `BUSY = 1`, as an
accepted `CMD` write leaves them (rule R34), and the engine's turn next (log entry 7). -/
def State.withFetchWord (s : State) (nbits w : Nat) : State :=
  (s.writeCmd (tableWord nbits w)).withEvents (.engine :: s.port.events)

end Sys2Proof.Machine
end

