-- ==== Sys2Proof/Safety.lean ====
section
/-! DEFINITION. What counts as a sound parameter, a legal state and a safe run, in the terms the statements use: the
constraints on `CAP` (rule R41), the tables of preconditions and outcomes (rules R108, R211, R218), and the invariants a
step keeps. -/

namespace Sys2Proof.Machine

/-! ### The parameter `CAP` (rule R41) -/

/-- The constraint of rule R41 under which the alignment loop ends: `apos ≥ 5`, `astride ≥ 1`. -/
abbrev alignSound (e : CapEntry) : Prop := 5 ≤ e.apos.toNat ∧ 1 ≤ e.astride.toNat

/-- The constraint of rule R41 on a Level tuple: `nb ≥ 1`, `ne·nb < bytes`. -/
abbrev levelSound (e : CapEntry) (l : Nat) : Prop :=
  1 ≤ (levelTuple e l).nb.toNat ∧ (levelTuple e l).ne.toNat * (levelTuple e l).nb.toNat < e.bytes.toNat

/-- Every record of `CAP` ends the alignment loop. -/
abbrev alignSoundConfig (config : Config) : Prop :=
  ∀ v, 1 ≤ v → v ≤ 40 → alignSound (capRecord config v)

/-! ### The tables of `30_encoding.md` and `60_exceptions.md` -/

/-- The 29 opcodes of rule R102. -/
def opcodes : List Nat :=
  [0x00, 0x01, 0x10, 0x11, 0x12, 0x13, 0x14, 0x15, 0x16, 0x17, 0x20, 0x21, 0x22, 0x23, 0x30, 0x31, 0x32, 0x40, 0x50, 0x51,
    0x52, 0x53, 0x54, 0x60, 0x61, 0x62, 0x63, 0x64, 0x70]

/-- The opcodes whose field `a` is an operand (rule R102). -/
def opcodesWithA : List Nat :=
  [0x10, 0x17, 0x30, 0x31, 0x32, 0x40, 0x50, 0x51, 0x52, 0x53, 0x54, 0x61]

/-- The opcodes whose field `b` is an operand: `FI.PLAN` and `MK.APPLY` (rule R106). -/
def opcodesWithB : List Nat := [0x32, 0x40]

/-- A command word is illegal (rule R106), read off its bits as numbers. -/
abbrev isIllegal (w : Word) : Prop :=
  w.toNat % 256 ∉ opcodes ∨ w.toNat / 65536 ≠ 0
    ∨ (w.toNat % 256 ∉ opcodesWithA ∧ w.toNat / 256 % 16 ≠ 0)
    ∨ (w.toNat % 256 ∉ opcodesWithB ∧ w.toNat / 4096 % 16 ≠ 0)

/-- The state precondition of each command, the table of rule R108; false means `BadState`. -/
def precondition (i : Instr) (s : State) : Bool :=
  let st := s.status
  match i with
  | .nop | .reset | .gpInit _ | .gpAll _ | .plPlan => true
  | .gpTiming => st.gridInit && st.gpstep == 0
  | .gpFinder => st.gridInit && st.gpstep == 1
  | .gpAlign => st.gridInit && st.gpstep == 2
  | .gpVerinfo => st.gridInit && st.gpstep == 3
  | .gpFmtrsv => st.gridInit && st.gpstep == 4
  | .gpDark => st.gridInit && st.gpstep == 5
  | .blParam => st.gridInit && !st.layoutOk && !st.planOk
  | .blIlv => st.paramOk && !st.layoutOk && !st.planOk
  | .blSweep => st.gridOk && st.seqOk && !st.layoutOk && !st.planOk
  | .blAll => st.gridOk && !st.layoutOk && !st.planOk
  | .fiEnc _ => st.paramOk && !st.planOk
  | .fiPaint _ => st.gridOk && st.fmtOk && !st.planOk
  | .fiPlan _ _ => st.gridOk && st.paramOk && !st.planOk
  | .mkApply _ _ => st.layoutOk && !st.planOk
  | .psRun src | .psBox src | .psFind src | .psBal src | .psScore src =>
    if src = 0 then st.candOk else if src = 1 then st.codeOk else if src = 2 then st.workOk else true
  | .enPlace | .enEncode => st.layoutOk
  | .enCand _ => st.workOk && s.plan.ncopy == 8
  | .enKeep => st.candOk
  | .enSelect => st.workOk

/-- The values test 4 of rule R212 looks at are in range (rule R211, `InvalidParameter`). -/
def parametersInRange (i : Instr) (s : State) : Bool :=
  let version := decide (1 ≤ s.cfg.version.toNat ∧ s.cfg.version.toNat ≤ 40)
  let level := decide (s.cfg.level.toNat ≤ 3)
  match i with
  | .gpInit n | .gpAll n => version && (n == 1 || n == 8)
  | .blParam | .blAll => level
  | .fiEnc m | .fiPlan m _ | .mkApply m _ => decide (m ≤ 7)
  | .plPlan => version && level && decide (s.cfg.mask.toNat ≤ 7 ∨ s.cfg.mask.toNat = 15)
  | .nop | .reset | .gpTiming | .gpFinder | .gpAlign | .gpVerinfo | .gpFmtrsv | .gpDark | .blIlv | .blSweep
  | .fiPaint _ | .psRun _ | .psBox _ | .psFind _ | .psBal _ | .psScore _ | .enPlace | .enCand _ | .enKeep | .enSelect
  | .enEncode => true

/-- The operands test 5 of rule R212 looks at are in range (rules R105, R211, `BadOperand`). -/
def operandsInRange (i : Instr) (s : State) : Bool :=
  match i with
  | .fiPaint k | .fiPlan _ k | .mkApply _ k | .enCand k => decide (k ≤ 7 ∧ k < s.plan.ncopy.toNat)
  | .psRun src | .psBox src | .psFind src | .psBal src | .psScore src => decide (src ≤ 2)
  | .nop | .reset | .gpInit _ | .gpTiming | .gpFinder | .gpAlign | .gpVerinfo | .gpFmtrsv | .gpDark | .gpAll _ | .blParam
  | .blIlv | .blSweep | .blAll | .fiEnc _ | .enPlace | .enKeep | .enSelect | .enEncode | .plPlan => true

/-- The engine would run the command's effect: tests 1, 3, 4 and 5 of rule R212 pass. -/
abbrev Ready (i : Instr) (s : State) : Prop :=
  s.status.fatal = false ∧ precondition i s = true ∧ parametersInRange i s = true ∧ operandsInRange i s = true

/-- The fatal codes each command can raise, the last column of the table of rule R218. -/
def fatalCodesOf : Instr → List FatalCode
  | .blParam => [.tableDefect]
  | .blSweep => [.sweepMismatch]
  | .blAll | .plPlan => [.tableDefect, .sweepMismatch]
  | .enPlace | .enEncode => [.byteCountMismatch]
  | .nop | .reset | .gpInit _ | .gpTiming | .gpFinder | .gpAlign | .gpVerinfo | .gpFmtrsv | .gpDark | .gpAll _ | .blIlv
  | .fiEnc _ | .fiPaint _ | .fiPlan _ _ | .mkApply _ _ | .psRun _ | .psBox _ | .psFind _ | .psBal _ | .psScore _
  | .enCand _ | .enKeep | .enSelect => []

/-! ### Invariants -/

/-- Every memory is in canonical form. -/
abbrev Canonical (s : State) : Prop :=
  Memory.wf s.grid ∧ Memory.wf s.seq ∧ (∀ k : Fin 8, Memory.wf s.tpl[k]) ∧ Memory.wf s.work ∧ Memory.wf s.cand
    ∧ Memory.wf s.out ∧ Memory.wf s.cw

/-- The readiness flags imply one another as the preconditions and clearings of rules R35 and R108 make them; a latched
`Fatal` leaves every flag 0 and is the only source of a `FATALCODE` (rules R37, R216). -/
structure FlagsCoherent (s : State) : Prop where
  step_grid     : s.status.gridInit = false → s.status.gpstep = 0
  param_grid    : s.status.paramOk = true → s.status.gridInit = true
  seq_param     : s.status.seqOk = true → s.status.paramOk = true
  layout_gridOk : s.status.layoutOk = true → s.status.gridOk = true
  layout_seq    : s.status.layoutOk = true → s.status.seqOk = true
  fmt_param     : s.status.fmtOk = true → s.status.paramOk = true
  plan_layout   : s.status.planOk = true → s.status.layoutOk = true
  plan_fmt      : s.status.planOk = true → s.status.fmtOk = true
  work_layout   : s.status.workOk = true → s.status.layoutOk = true
  cand_work     : s.status.candOk = true → s.status.workOk = true
  cand_search   : s.status.candOk = true → s.plan.ncopy = 8
  fatal_clear   : s.status.fatal = true →
    s.status.gridInit = false ∧ s.status.penOk = false ∧ s.status.codeOk = false
  fatal_code    : s.fatalcode = .none ↔ s.status.fatal = false

/-- The plan registers of a plan begun describe one version (rules R26, R27, R28). -/
structure PlanShape (s : State) : Prop where
  version_lo : 1 ≤ s.plan.plancfg.version.toNat
  version_hi : s.plan.plancfg.version.toNat ≤ 40
  side_eq    : s.plan.side.toNat = 17 + 4 * s.plan.plancfg.version.toNat
  stride_eq  : s.plan.stride.toNat = (s.plan.side.toNat + 7) / 8
  ncopy_eq   : s.plan.ncopy = 1 ∨ s.plan.ncopy = 8

/-- While `GRID_INIT = 1` the plan registers describe one version. -/
abbrev PlanCoherent (s : State) : Prop := s.status.gridInit = true → PlanShape s

/-- The block-layout registers agree with `CAP` and with one another (rules R29, R141). -/
structure BlockShape (s : State) : Prop where
  level_le  : s.plan.plancfg.level.toNat ≤ 3
  nb_pos    : 1 ≤ s.plan.nb.toNat
  total_eq  : s.plan.databytes.toNat + s.plan.checkbytes.toNat = s.capEntry.bytes.toNat
  check_eq  : s.plan.nb.toNat * s.plan.ne.toNat = s.plan.checkbytes.toNat
  data_eq   : s.plan.nb.toNat * s.plan.nde.toNat + s.plan.extra.toNat = s.plan.databytes.toNat
  extra_lt  : s.plan.extra.toNat < s.plan.nb.toNat

/-- The layout registers agree with the flags that say they are meaningful (rules R29, R30, R31). -/
structure LayoutCoherent (s : State) : Prop where
  block  : s.status.paramOk = true → BlockShape s
  seqlen : s.status.seqOk = true →
    s.plan.seqlen.toNat = 8 * (s.plan.databytes.toNat + s.plan.checkbytes.toNat) + 7
  free   : s.status.layoutOk = true →
    8 * (s.plan.databytes.toNat + s.plan.checkbytes.toNat) ≤ s.plan.freecnt.toNat
      ∧ s.plan.freecnt.toNat ≤ s.plan.seqlen.toNat

/-! ### The model's own reading of the rules, in closed form -/

/-- `F`: the number of unassigned cells the sweep visits (rules R41, R146). -/
def freeCells (s : State) : Nat := ((sweepOrder s.side).filter fun p => (s.cell p.1 p.2).role = .unassigned).length

/-- A run is safe when no step of it stops the machine. -/
def SafeRun (s : State) (k : Nat) : Prop := ∃ t, core.run k s = .next t

end Sys2Proof.Machine
end

