-- ==== Sys2Proof/Certificates/Slice0/Obligations.lean ====
section
/-! DEFINITION. The statements about the model. Each docstring names the rule of `spec/` it formalises.

The first part holds the words the statements share: what a command leaves when it is rejected, ends well or raises a
`Fatal`, and closed forms of the rules' tables written independently of the meanings. -/

namespace Sys2Proof.Claims

open Sys2Proof.Machine

/-! ### Endings -/

/-- `s` after a rejection with `code` (rule R214): `ERR`, `ERRCMD` and `BUSY` written, nothing else. -/
abbrev rejected (s : State) (code : ErrCode) : State :=
  { s with status := { s.status with err := code, busy := false }, errcmd := s.pending }

/-- `t` is what a `Fatal` with `code` leaves of `s` (rule R216); nothing is said of what the rule leaves unspecified. -/
structure FatalEnding (s t : State) (code : FatalCode) : Prop where
  status_eq    : t.status = { Status.zero with fatal := true, err := .fatalRaised }
  errcmd_eq    : t.errcmd = s.pending
  code_eq      : t.fatalcode = code
  cfg_eq       : t.cfg = s.cfg
  cwlen_eq     : t.cwlen = s.cwlen
  cw_eq        : ∀ j, t.cwByte j = s.cwByte j
  config_eq    : t.config = s.config
  port_eq      : t.port = s.port
  unreadable   : ∀ (addr : BitVec 20) (width : Nat), 0x2000 ≤ addr.toNat → memRead t addr width = none

/-- Running the commands of a list one after the other, each ending with `ERR = 0`, leads from `s` to `t`. -/
def Chain : List Instr → State → State → Prop
  | [], s, t => t = s
  | i :: is, s, t => ∃ u, exec i s = .next u ∧ u.status.err = .ok ∧ Chain is u t

/-! ### Drawing -/

/-- From `s` to `t`, the cells `inside` become `cell` and their modules `colour` in every template of the plan; every other
cell and every other module, also of the templates outside the plan, is unchanged. -/
structure Draws (s t : State) (inside : Nat → Nat → Prop) (cell : Nat → Nat → Cell) (colour : Nat → Nat → Bool) :
    Prop where
  cells    : ∀ r c, c < 256 → inside r c → t.cell r c = cell r c
  others   : ∀ r c, c < 256 → ¬ inside r c → t.cell r c = s.cell r c
  modules  : ∀ k r c, k < 8 → k < s.ncopy → c < 8 * s.stride → inside r c → t.tplPixel k r c = colour r c
  unpainted : ∀ k r c, k < 8 → c < 8 * s.stride → ¬ (k < s.ncopy ∧ inside r c) → t.tplPixel k r c = s.tplPixel k r c

/-- A grid-planner step: from `GPSTEP = before` it draws and ends with `GPSTEP = after`, nothing but `GRID` and the templates
written besides; in any other state it ends with `BadState`. -/
def GridStep (i : Instr) (before after : Fin 7) (s : State) (inside : Nat → Nat → Prop) (cell : Nat → Nat → Cell)
    (colour : Nat → Nat → Bool) : Prop :=
  (s.status.gridInit = true → s.status.gpstep = before →
    ∃ t, exec i s = .next t
      ∧ t = { s with
          status := { s.status with gpstep := after, err := .ok, busy := false }, grid := t.grid, tpl := t.tpl }
      ∧ Draws s t inside cell colour)
  ∧ (¬ (s.status.gridInit = true ∧ s.status.gpstep = before) → exec i s = .next (rejected s .badState))

/-- The distance of module `(r, c)` from a centre, in rings. -/
def ring (centre : Int × Int) (r c : Nat) : Nat := max (r - centre.1).natAbs (c - centre.2).natAbs

/-- The centres of the three finder patterns (rule R123: top-left cells `(0,0)`, `(0, SIDE−7)`, `(SIDE−7, 0)`). -/
def finderCentres (side : Nat) : List (Int × Int) := [(3, 3), (3, side - 4), (side - 4, 3)]

/-- The coordinates of rule R126 in closed form: 4, then `apos`, `apos + astride`, … while the box fits. -/
def alignPositions (e : CapEntry) (side : Nat) : List Nat :=
  4 :: if e.apos.toNat + 5 < side then
    (List.range ((side - 6 - e.apos.toNat) / e.astride.toNat + 1)).map fun i => e.apos.toNat + i * e.astride.toNat
  else []

/-- An alignment box has its top-left cell at `(r0, c0)`: both coordinates are positions, and the box does not touch the
top-left, the bottom-left or the top-right finder (rule R125). -/
def BoxAt (s : State) (r0 c0 : Nat) : Prop :=
  r0 ∈ alignPositions s.capEntry s.side ∧ c0 ∈ alignPositions s.capEntry s.side
    ∧ ¬ (c0 < 7 ∧ r0 < 7) ∧ ¬ (c0 < 7 ∧ s.side ≤ r0 + 12) ∧ ¬ (s.side ≤ c0 + 12 ∧ r0 < 7)

/-- Module `(r, c)` lies in the box at `(r0, c0)`. -/
abbrev InBox (r0 c0 r c : Nat) : Prop := r0 ≤ r ∧ r ≤ r0 + 4 ∧ c0 ≤ c ∧ c ≤ c0 + 4

/-- Copy A of the format placeholders, bits 0 to 14 (the table of rule R129). -/
def formatA : List (Nat × Nat) :=
  [(0, 8), (1, 8), (2, 8), (3, 8), (4, 8), (5, 8), (7, 8), (8, 8), (8, 7), (8, 5), (8, 4), (8, 3), (8, 2), (8, 1), (8, 0)]

/-- Copy B of the format placeholders, bits 0 to 14 (the table of rule R129). -/
def formatB (side : Nat) : List (Nat × Nat) :=
  [(8, side - 1), (8, side - 2), (8, side - 3), (8, side - 4), (8, side - 5), (8, side - 6), (8, side - 7), (8, side - 8),
    (side - 7, 8), (side - 6, 8), (side - 5, 8), (side - 4, 8), (side - 3, 8), (side - 2, 8), (side - 1, 8)]

/-- Cell `(r, c)` is a placeholder of bit `i`. -/
def IsFormatCell (side i r c : Nat) : Prop := formatA[i]? = some (r, c) ∨ (formatB side)[i]? = some (r, c)

/-- The 32 format words, the table of rule R159: levels L, M, Q, H; masks 0 to 7. -/
def formatWords : List (List Nat) :=
  [[0x77C4, 0x72F3, 0x7DAA, 0x789D, 0x662F, 0x6318, 0x6C41, 0x6976],
    [0x5412, 0x5125, 0x5E7C, 0x5B4B, 0x45F9, 0x40CE, 0x4F97, 0x4AA0],
    [0x355F, 0x3068, 0x3F31, 0x3A06, 0x24B4, 0x2183, 0x2EDA, 0x2BED],
    [0x1689, 0x13BE, 0x1CE7, 0x19D0, 0x0762, 0x0255, 0x0D0C, 0x083B]]

/-- The format word of a level and a mask, read from the table. -/
def tableFormatWord (level m : Nat) : Nat := ((formatWords[level]?.getD [])[m]?).getD 0

/-- A box at `(r0, c0)` touches no finder (rule R125). -/
abbrev ClearOfFinders (side r0 c0 : Nat) : Prop :=
  ¬ (c0 < 7 ∧ r0 < 7) ∧ ¬ (c0 < 7 ∧ side ≤ r0 + 12) ∧ ¬ (side ≤ c0 + 12 ∧ r0 < 7)

/-- Some step of the grid planner draws cell `(r, c)` of a symbol of version `v` (rules R122 to R130). -/
def fixedCell (e : CapEntry) (v r c : Nat) : Bool :=
  let side := 17 + 4 * v
  let starts := alignPositions e side
  r == 6 || c == 6 || (finderCentres side).any (fun p => decide (ring p r c ≤ 4))
    || starts.any (fun r0 => starts.any fun c0 => decide (ClearOfFinders side r0 c0 ∧ InBox r0 c0 r c))
    || decide (7 ≤ v ∧ ((side - 11 ≤ r ∧ r < side - 8 ∧ c < 6) ∨ (side - 11 ≤ c ∧ c < side - 8 ∧ r < 6)))
    || formatA.contains (r, c) || (formatB side).contains (r, c) || (r == side - 8 && c == 8)

/-- `F(v)` of rule R41, "the number of cells the six grid-planner steps leave unassigned for version `v`", from the record of
`v` alone. Column 6 is all drawn, so the cells the sweep visits are enough (rule R144). -/
def plannedFree (e : CapEntry) (v : Nat) : Nat :=
  ((sweepOrder (17 + 4 * v)).filter fun p => !fixedCell e v p.1 p.2).length

/-! ### Layout -/

/-- `len(b)`, rule R142. -/
def dataLen (p : PlanRegs) (b : Nat) : Nat := p.nde.toNat + if p.nb.toNat - p.extra.toNat ≤ b then 1 else 0

/-- `start(b)`, rule R142. -/
def dataStart (p : PlanRegs) (b : Nat) : Nat := b * p.nde.toNat + (b - (p.nb.toNat - p.extra.toNat))

/-- The place, counted in bytes, of data byte `i` of block `b` in the interleaved sequence (rule R143): before it stand all
bytes with a lower index, and those with the same index of the earlier blocks that have one. -/
def dataPlace (p : PlanRegs) (i b : Nat) : Nat :=
  if i < p.nde.toNat then i * p.nb.toNat + b else p.nde.toNat * p.nb.toNat + (b - (p.nb.toNat - p.extra.toNat))

/-- The number of the visit of the sweep to cell `(r, c)` of a grid of side `side` (rule R144): column pairs from the right,
column 6 left out, the first pair upward and then alternating, in a row the right column first. -/
def sweepPlace (side r c : Nat) : Nat :=
  let fromRight := side - 2 - (if 6 < c then c - 1 else c)
  let pair := fromRight / 2
  2 * side * pair + 2 * (if pair % 2 = 0 then side - 1 - r else r) + fromRight % 2

/-- The free cells of a grid, in the order the sweep visits them. -/
def freeInOrder (s : State) : List (Nat × Nat) :=
  (sweepOrder s.side).filter fun p => (s.cell p.1 p.2).role = .unassigned

/-! ### Bitmaps and penalties -/

/-- The side and the modules of the bitmap operand `src` names (rule R170). -/
def scored (src : Nat) (s : State) : Nat × Modules :=
  if src = 0 then (s.plan.side.toNat, s.candPixel)
  else if src = 1 then (s.code.side.toNat, s.outPixel)
  else (s.plan.side.toNat, s.workPixel)

/-- The readiness flag of the bitmap operand `src` names (rule R170). -/
def scoredReady (src : Nat) (s : State) : Bool :=
  if src = 0 then s.status.candOk else if src = 1 then s.status.codeOk else s.status.workOk

/-- Pattern `P` occurs at `start` in a line extended with white (rule R176). -/
def Occurs (line : List Bool) (p : List Bool) (start : Int) : Prop :=
  ∀ i : Fin 12, (if 0 ≤ start + i.val then line.getD (start + i.val).toNat false else false) = p.getD i.val false

/-- The starts at which a pattern occurs in a window. -/
noncomputable def occurrences (line : List Bool) (p : List Bool) (lo hi : Int) : Finset Int :=
  open Classical in (Finset.Icc lo hi).filter (Occurs line p)

/-- Candidate `k` of a search as its modules: `WORK xor TPL[k]`. -/
def candidate (s : State) (k : Nat) : Modules := fun r c => s.workPixel r c ^^ s.tplPixel k r c

/-- The cells of a bitmap. -/
def cells (side : Nat) : Finset (Nat × Nat) := Finset.range side ×ˢ Finset.range side

/-! ### Registers -/

/-- The readable registers: the offsets of rule R80 and the value of each. -/
def registerMap (s : State) : List (Nat × Word) :=
  [(0x00, 0x51524750), (0x08, s.status.word), (0x0C, s.cfg.word), (0x10, s.cwlen.setWidth 32), (0x14, s.errcmd),
    (0x18, match s.fatalcode with | .none => 0 | .sweepMismatch => 8 | .byteCountMismatch => 9 | .tableDefect => 10),
    (0x20, s.plan.plancfg.word), (0x24, s.plan.side), (0x28, s.plan.stride), (0x2C, s.plan.ncopy), (0x30, s.plan.nb),
    (0x34, s.plan.ne), (0x38, s.plan.nde), (0x3C, s.plan.extra), (0x40, s.plan.databytes), (0x44, s.plan.checkbytes),
    (0x48, s.plan.seqlen), (0x4C, s.plan.freecnt), (0x50, s.plan.fmtword.setWidth 32)]
  ++ [(0x60, s.pen.run), (0x64, s.pen.box), (0x68, s.pen.find), (0x6C, s.pen.bal), (0x70, s.pen.total),
    (0x74, s.pen.bestmask.setWidth 32), (0x78, s.pen.candmask.setWidth 32)]
  ++ (List.range 8).map (fun k => (0x80 + 4 * k, s.penm k))
  ++ [(0xA0, s.code.side), (0xA4, s.code.stride)]

/-- Word `i` of a record in the `CAP` window: the table of rule R43, its fields side by side from the most significant. -/
def recordWord (e : CapEntry) (i : Nat) : Word :=
  match i with
  | 0 => (0 : BitVec 20) ++ e.bytes
  | 1 => (0 : BitVec 16) ++ e.astride ++ e.apos
  | 2 => (0 : BitVec 14) ++ e.vpat
  | 3 => e.h.nb ++ e.q.nb ++ e.m.nb ++ e.l.nb
  | 4 => e.h.ne ++ e.q.ne ++ e.m.ne ++ e.l.ne
  | _ => 0

end Sys2Proof.Claims

open Sys2Proof Sys2Proof.Machine Sys2Proof.Claims

/-! ### Encoding and decoding -/

/-- Every well-formed command decodes back from its word (rules R100, R102, R110). -/
def Obligations.EncodedCommandDecodesBack : Prop :=
  ∀ i : Instr, i.wellFormed = true → decode (encode i) = .ok i

/-- Every word that decodes is the word of a well-formed command: no two words stand for one command and no bit of a legal
word is ignored (rules R100, R101, R106). -/
def Obligations.DecodedWordEncodesBack : Prop :=
  ∀ (w : Word) (i : Instr), decode w = .ok i → i.wellFormed = true ∧ encode i = w

/-- The command words the spec prints (rules R110 and vector V20). -/
def Obligations.PrintedWordsDecode : Prop :=
  decode 0x00000810 = .ok (.gpInit 8) ∧ decode 0x00000332 = .ok (.fiPlan 3 0) ∧ decode 0x00005540 = .ok (.mkApply 5 5)
    ∧ decode 0x00000154 = .ok (.psScore 1) ∧ decode 0x00000070 = .ok .plPlan ∧ decode 0x00000064 = .ok .enEncode
    ∧ decode 0x00000023 = .ok .blAll ∧ decode 0x00000001 = .ok .reset

/-- Exactly the words of rule R106 are illegal, and each ends with `IllegalCommand` and no other effect. -/
def Obligations.IllegalWordsEndWithIllegalCommand : Prop :=
  (∀ w : Word, isIllegal w ↔ ∃ e, decode w = .error e)
  ∧ ∀ s : State, s.status.busy = true → s.status.fatal = false → isIllegal s.pending →
      engineStep s = .next (rejected s .illegalCommand)

/-! ### The step -/

/-- On the engine's turn a step is the decoded command's meaning at the state with that turn taken off the events; with no
command in flight it changes nothing else (rules R103, R245). -/
def Obligations.StepRunsPendingCommand : Prop :=
  ∀ (s : State) (es : List Event), (s.port.events = .engine :: es ∨ (s.port.events = [] ∧ es = [])) →
    (∀ i : Instr, i.wellFormed = true → s.status.busy = true → s.pending = encode i →
      step s = exec i { s with port := { s.port with events := es } })
    ∧ (s.status.busy = false → step s = .next { s with port := { s.port with events := es } })

/-- The five tests of rule R212, in order, for every command word and every state with a command in flight. -/
def Obligations.EngineTestsInOrder : Prop :=
  ∀ s : State, s.status.busy = true →
    (s.status.fatal = true → s.pending.toNat % 256 ≠ 1 → engineStep s = .next (rejected s .locked))
    ∧ (¬ (s.status.fatal = true ∧ s.pending.toNat % 256 ≠ 1) →
      (isIllegal s.pending → engineStep s = .next (rejected s .illegalCommand))
      ∧ ∀ i : Instr, decode s.pending = .ok i →
        (precondition i s = false → engineStep s = .next (rejected s .badState))
        ∧ (precondition i s = true → parametersInRange i s = false →
          engineStep s = .next (rejected s .invalidParameter))
        ∧ (precondition i s = true → parametersInRange i s = true → operandsInRange i s = false →
          engineStep s = .next (rejected s .badOperand)))

/-- While `FATAL = 1` every command but `RESET` ends with `Locked`, and no step but a hardware reset or the word `RESET` at
the engine's turn leads out (rule R217). -/
def Obligations.OnlyResetUnlocks : Prop :=
  (∀ (i : Instr) (s : State), i ≠ .reset → s.status.fatal = true → exec i s = .next (rejected s .locked))
  ∧ ∀ s t : State, step s = .next t → s.status.fatal = true → t.status.fatal = false →
      (∃ es, s.port.events = .hardReset :: es)
      ∨ (s.status.busy = true ∧ s.pending = 1 ∧ (s.port.events = [] ∨ ∃ es, s.port.events = .engine :: es))

/-- "No command ever leaves `BUSY = 1`" and none hangs (rules R103, R210), when `CAP` ends the alignment loop (rule R41) and
the plan registers are coherent. -/
def Obligations.EveryCommandEnds : Prop :=
  ∀ (i : Instr) (s : State), alignSoundConfig s.config → PlanCoherent s →
    ∃ t, exec i s = .next t ∧ t.status.busy = false

/-- What a command that ends has reported: the table of rule R218. -/
def Obligations.OutcomesOfEachCommand : Prop :=
  ∀ (i : Instr) (s t : State), exec i s = .next t →
    t.status.err ≠ .illegalCommand
    ∧ (t.status.err = .badState → precondition i s = false)
    ∧ (t.status.err = .invalidParameter → parametersInRange i s = false)
    ∧ (t.status.err = .badOperand → operandsInRange i s = false)
    ∧ (t.status.err = .locked → s.status.fatal = true)
    ∧ (t.status.err = .fatalRaised → t.fatalcode ∈ fatalCodesOf i)
    ∧ (t.status.err ≠ .ok → t.errcmd = s.pending)
    ∧ (t.status.err = .ok → i ≠ .reset → t.errcmd = s.errcmd)

/-- `raise Fatal(code)`, whichever command raises it (rule R216). -/
def Obligations.FatalEndsTheCommand : Prop :=
  ∀ (i : Instr) (s t : State), s.status.fatal = false → exec i s = .next t → t.status.fatal = true →
    FatalEnding s t t.fatalcode ∧ t.fatalcode ∈ fatalCodesOf i

/-- The reset event, from any state, locked and busy ones too: of the `RESET` command and of the hardware reset input
(rules R201, R240, R54): the registers 0, `ID` kept, the engine's memories unreadable, `CW` readable with nothing known of
its contents (nothing listed: log entry 2), `CAP` kept. -/
def Obligations.ResetEventFromAnyState : Prop :=
  ∀ s : State, ∃ t, exec .reset s = .next t
    ∧ t.status = Status.zero ∧ t.cfg = ⟨0, 0, 0⟩ ∧ t.cwlen = 0 ∧ t.errcmd = 0 ∧ t.fatalcode = .none
    ∧ t.plan = PlanRegs.zero ∧ t.pen = PenRegs.zero ∧ t.code = ⟨0, 0⟩ ∧ t.config = s.config ∧ t.port = s.port
    ∧ memRead t 0x00 4 = some 0x51524750
    ∧ (∀ (addr : BitVec 20) (width : Nat), 0x2000 ≤ addr.toNat → memRead t addr width = none)
    ∧ t.cw = [] ∧ (∀ j, j < 0x1000 → ∃ v, memRead t (BitVec.ofNat 20 (0x1000 + j)) 1 = some v)
    ∧ ∀ es, s.port.events = .hardReset :: es → step s = .next { t with port := { t.port with events := es } }

/-- The registers after reset as the host reads them: `ID`, and 0 everywhere else (rule R54). -/
def Obligations.RegistersAfterReset : Prop :=
  memRead State.reset 0x00 4 = some 0x51524750
    ∧ ∀ offset ∈ [0x08, 0x0C, 0x10, 0x14, 0x18, 0x20, 0x24, 0x28, 0x2C, 0x30, 0x34, 0x38, 0x3C, 0x40, 0x44, 0x48, 0x4C,
        0x50, 0x60, 0x64, 0x68, 0x6C, 0x70, 0x74, 0x78, 0x80, 0x84, 0x88, 0x8C, 0x90, 0x94, 0x98, 0x9C, 0xA0, 0xA4],
      memRead State.reset (BitVec.ofNat 20 offset) 4 = some 0

/-- `NOP` (rule R200). -/
def Obligations.NopOnlyEnds : Prop :=
  ∀ s : State,
    (s.status.fatal = false → exec .nop s = .next { s with status := { s.status with err := .ok, busy := false } })
    ∧ (s.status.fatal = true → exec .nop s = .next (rejected s .locked))

/-! ### The grid planner -/

/-- `GP.INIT n` (rule R121). -/
def Obligations.GpInitClearsGridAndTemplates : Prop :=
  ∀ (n : Nat) (s : State), s.status.fatal = false →
    (1 ≤ s.cfg.version.toNat → s.cfg.version.toNat ≤ 40 → (n = 1 ∨ n = 8) →
      ∃ t, exec (.gpInit n) s = .next t
        ∧ t = { s with
            status := { s.status with
              gridInit := true, gpstep := 0, paramOk := false, seqOk := false, layoutOk := false, fmtOk := false
              planOk := false, workOk := false, candOk := false, penOk := false, err := .ok, busy := false }
            plan := { PlanRegs.zero with
              plancfg := ⟨s.cfg.version, 0, 0⟩, side := t.plan.side, stride := t.plan.stride, ncopy := t.plan.ncopy }
            grid := t.grid
            tpl := t.tpl }
        ∧ t.side = 17 + 4 * s.cfg.version.toNat ∧ t.stride = (t.side + 7) / 8 ∧ t.ncopy = n
        ∧ (∀ r c, c < 256 → t.cell r c = if r < t.side ∧ c < t.side then Cell.blank else s.cell r c)
        ∧ ∀ k j, k < 8 → t.tplByte k j = if k < n ∧ j < t.stride * t.side then 0 else s.tplByte k j)
    ∧ (¬ (1 ≤ s.cfg.version.toNat ∧ s.cfg.version.toNat ≤ 40 ∧ (n = 1 ∨ n = 8)) →
      exec (.gpInit n) s = .next (rejected s .invalidParameter))

/-- `GP.TIMING` (rule R122): row 6 and column 6, even cells black. -/
def Obligations.GpTimingDrawsRowAndColumnSix : Prop :=
  ∀ s : State, s.status.fatal = false → PlanShape s →
    GridStep .gpTiming 0 1 s (fun r c => (r = 6 ∧ c < s.side) ∨ (c = 6 ∧ r < s.side)) (fun _ _ => ⟨.timing, 0⟩)
      (fun r c => if r = 6 then c % 2 == 0 else r % 2 == 0)

/-- `GP.FINDER` (rules R123, R124): the modules within four rings of a centre, in-bounds; rings 0, 1 and 3 black. -/
def Obligations.GpFinderDrawsThreeRingedBoxes : Prop :=
  ∀ s : State, s.status.fatal = false → PlanShape s →
    GridStep .gpFinder 1 2 s (fun r c => r < s.side ∧ c < s.side ∧ ∃ p ∈ finderCentres s.side, ring p r c ≤ 4)
      (fun _ _ => ⟨.position, 0⟩)
      (fun r c => (finderCentres s.side).any fun p => ring p r c == 0 || ring p r c == 1 || ring p r c == 3)

/-- `GP.ALIGN` (rules R125, R126) with a `CAP` record that ends the loop: the cells of the boxes become Alignment; a module
in one box only has the box's colour (black ring, white interior, black centre); every other cell and module is unchanged. -/
def Obligations.GpAlignDrawsBoxes : Prop :=
  ∀ s : State, s.status.fatal = false → PlanShape s → alignSound s.capEntry →
    (s.status.gridInit = true → s.status.gpstep = 2 →
      ∃ t, exec .gpAlign s = .next t
        ∧ t = { s with
            status := { s.status with gpstep := 3, err := .ok, busy := false }, grid := t.grid, tpl := t.tpl }
        ∧ (∀ r c, c < 256 → (∃ r0 c0, BoxAt s r0 c0 ∧ InBox r0 c0 r c) → t.cell r c = ⟨.alignment, 0⟩)
        ∧ (∀ r c, c < 256 → ¬ (∃ r0 c0, BoxAt s r0 c0 ∧ InBox r0 c0 r c) → t.cell r c = s.cell r c)
        ∧ (∀ k r c r0 c0, k < 8 → k < s.ncopy → BoxAt s r0 c0 → InBox r0 c0 r c →
          (∀ r1 c1, BoxAt s r1 c1 → InBox r1 c1 r c → r1 = r0 ∧ c1 = c0) →
          t.tplPixel k r c = (ring ((r0 : Int) + 2, (c0 : Int) + 2) r c != 1))
        ∧ ∀ k r c, k < 8 → c < 8 * s.stride → ¬ (k < s.ncopy ∧ ∃ r0 c0, BoxAt s r0 c0 ∧ InBox r0 c0 r c) →
          t.tplPixel k r c = s.tplPixel k r c)
    ∧ (¬ (s.status.gridInit = true ∧ s.status.gpstep = 2) → exec .gpAlign s = .next (rejected s .badState))

/-- Where `GP.ALIGN` stops: a record that breaks rule R41 so that the loop of rule R126 meets one coordinate again (U12, log
entry 5). -/
def Obligations.GpAlignStopsOnEndlessLoop : Prop :=
  ∀ s : State, s.status.fatal = false → PlanShape s → s.status.gridInit = true → s.status.gpstep = 2 →
    (s.capEntry.apos.toNat = 4
      ∨ (s.capEntry.astride.toNat = 0 ∧ 5 ≤ s.capEntry.apos.toNat ∧ s.capEntry.apos.toNat + 5 < s.side)) →
    exec .gpAlign s = .fault .alignLoopEndless

/-- `GP.VERINFO` (rule R127): from version 7 on, bit `3x + y` of the pattern at `(SIDE−11+y, x)` and at its mirror. -/
def Obligations.GpVerinfoDrawsTwoMirroredBlocks : Prop :=
  ∀ s : State, s.status.fatal = false → PlanShape s →
    GridStep .gpVerinfo 3 4 s
      (fun r c => 7 ≤ s.plan.plancfg.version.toNat
        ∧ ((s.side - 11 ≤ r ∧ r < s.side - 8 ∧ c < 6) ∨ (s.side - 11 ≤ c ∧ c < s.side - 8 ∧ r < 6)))
      (fun _ _ => ⟨.versionPattern, 0⟩)
      (fun r c => s.capEntry.vpat.getLsbD
        (if c < 6 then 3 * c + (r - (s.side - 11)) else 3 * r + (c - (s.side - 11))))

/-- `GP.FMTRSV` (rules R128, R129): bit `i` reserves its cell of copy A and its cell of copy B, white. -/
def Obligations.GpFmtrsvReservesBothCopies : Prop :=
  ∀ s : State, s.status.fatal = false → PlanShape s →
    (s.status.gridInit = true → s.status.gpstep = 4 →
      ∃ t, exec .gpFmtrsv s = .next t
        ∧ t = { s with
            status := { s.status with gpstep := 5, err := .ok, busy := false }, grid := t.grid, tpl := t.tpl }
        ∧ (∀ i r c, IsFormatCell s.side i r c → t.cell r c = ⟨.format, BitVec.ofNat 15 i⟩)
        ∧ (∀ r c, c < 256 → (∀ i, ¬ IsFormatCell s.side i r c) → t.cell r c = s.cell r c)
        ∧ (∀ k i r c, k < 8 → k < s.ncopy → IsFormatCell s.side i r c → t.tplPixel k r c = false)
        ∧ ∀ k r c, k < 8 → c < 8 * s.stride → ¬ (k < s.ncopy ∧ ∃ i, IsFormatCell s.side i r c) →
          t.tplPixel k r c = s.tplPixel k r c)
    ∧ (¬ (s.status.gridInit = true ∧ s.status.gpstep = 4) → exec .gpFmtrsv s = .next (rejected s .badState))

/-- `GP.DARK` (rule R130): one black Unused module at `(SIDE−8, 8)`. -/
def Obligations.GpDarkDrawsOneModule : Prop :=
  ∀ s : State, s.status.fatal = false → PlanShape s →
    GridStep .gpDark 5 6 s (fun r c => r = s.side - 8 ∧ c = 8) (fun _ _ => ⟨.unused, 0⟩) (fun _ _ => true)

/-- `GP.ALL n` (rule R131) ends in the state its seven commands, issued one by one, lead to. -/
def Obligations.GpAllIsItsSevenCommands : Prop :=
  ∀ (n : Nat) (s : State), s.status.fatal = false →
    (1 ≤ s.cfg.version.toNat → s.cfg.version.toNat ≤ 40 → (n = 1 ∨ n = 8) →
      alignSound (capRecord s.config s.cfg.version.toNat) →
      ∃ t, exec (.gpAll n) s = .next t
        ∧ Chain [.gpInit n, .gpTiming, .gpFinder, .gpAlign, .gpVerinfo, .gpFmtrsv, .gpDark] s t
        ∧ t.status.gridInit = true ∧ t.status.gpstep = 6)
    ∧ (¬ (1 ≤ s.cfg.version.toNat ∧ s.cfg.version.toNat ≤ 40 ∧ (n = 1 ∨ n = 8)) →
      exec (.gpAll n) s = .next (rejected s .invalidParameter))

/-! ### The block layout -/

/-- `BL.PARAM` (rule R141): the block sizes of `CFG.LEVEL`, or `Fatal(TableDefect)`. -/
def Obligations.BlParamComputesBlockSizes : Prop :=
  ∀ s : State, s.status.fatal = false →
    (s.status.gridInit = true → s.status.layoutOk = false → s.status.planOk = false → s.cfg.level.toNat ≤ 3 →
      (levelSound s.capEntry s.cfg.level.toNat →
        ∃ t, exec .blParam s = .next t
          ∧ t = { s with
              status := { s.status with paramOk := true, seqOk := false, fmtOk := false, err := .ok, busy := false }
              plan := { s.plan with
                plancfg := { s.plan.plancfg with level := s.cfg.level }
                nb := t.plan.nb, ne := t.plan.ne, nde := t.plan.nde, extra := t.plan.extra
                databytes := t.plan.databytes, checkbytes := t.plan.checkbytes } }
          ∧ t.plan.nb.toNat = (levelTuple s.capEntry s.cfg.level.toNat).nb.toNat
          ∧ t.plan.ne.toNat = (levelTuple s.capEntry s.cfg.level.toNat).ne.toNat
          ∧ BlockShape t)
      ∧ (¬ levelSound s.capEntry s.cfg.level.toNat →
        ∃ t, exec .blParam s = .next t ∧ FatalEnding s t .tableDefect))
    ∧ (s.status.gridInit = true → s.status.layoutOk = false → s.status.planOk = false → ¬ s.cfg.level.toNat ≤ 3 →
      exec .blParam s = .next (rejected s .invalidParameter))
    ∧ (¬ (s.status.gridInit = true ∧ s.status.layoutOk = false ∧ s.status.planOk = false) →
      exec .blParam s = .next (rejected s .badState))

/-- `BL.ILV` (rules R142, R143): where each data byte, each check byte and each filler slot stands in `SEQ`. -/
def Obligations.BlIlvInterleaves : Prop :=
  ∀ s : State, s.status.fatal = false →
    (s.status.paramOk = true → s.status.layoutOk = false → s.status.planOk = false → BlockShape s →
      ∃ t, exec .blIlv s = .next t
        ∧ t = { s with
            status := { s.status with seqOk := true, err := .ok, busy := false }
            plan := { s.plan with seqlen := t.plan.seqlen }
            seq := t.seq }
        ∧ t.plan.seqlen.toNat = 8 * (s.plan.databytes.toNat + s.plan.checkbytes.toNat) + 7
        ∧ (∀ b i x, b < s.plan.nb.toNat → i < dataLen s.plan b → x < 8 →
          t.entry (8 * dataPlace s.plan i b + x) = ⟨.data, BitVec.ofNat 15 (8 * (dataStart s.plan b + i) + x)⟩)
        ∧ (∀ b i x, b < s.plan.nb.toNat → i < s.plan.ne.toNat → x < 8 →
          t.entry (8 * (s.plan.databytes.toNat + i * s.plan.nb.toNat + b) + x)
            = ⟨.check, BitVec.ofNat 15 (8 * (s.plan.databytes.toNat + b * s.plan.ne.toNat + i) + x)⟩)
        ∧ (∀ j, j < 7 → t.entry (8 * (s.plan.databytes.toNat + s.plan.checkbytes.toNat) + j)
          = ⟨.extra, BitVec.ofNat 15 (8 * (s.plan.databytes.toNat + s.plan.checkbytes.toNat) + j)⟩)
        ∧ ∀ i, t.plan.seqlen.toNat ≤ i → t.entry i = s.entry i)
    ∧ (¬ (s.status.paramOk = true ∧ s.status.layoutOk = false ∧ s.status.planOk = false) →
      exec .blIlv s = .next (rejected s .badState))

/-- `sweeporder()` (rule R144): every cell outside column 6 once, at its place. -/
def Obligations.SweepVisitsEveryCellInOrder : Prop :=
  ∀ v, 1 ≤ v → v ≤ 40 →
    (sweepOrder (17 + 4 * v)).length = (17 + 4 * v) * (17 + 4 * v - 1)
    ∧ ∀ r c, r < 17 + 4 * v → c < 17 + 4 * v → c ≠ 6 →
      (sweepOrder (17 + 4 * v))[sweepPlace (17 + 4 * v) r c]? = some (r, c)

/-- `BL.SWEEP` (rules R145, R146): the `p`-th free cell gets `SEQ[p]`, or `Fatal(SweepMismatch)` exactly when a free cell
finds no entry or a Data or Check entry finds no cell. -/
def Obligations.BlSweepFillsFreeCells : Prop :=
  ∀ s : State, s.status.fatal = false → PlanShape s →
    (s.status.gridInit = true → s.status.gpstep = 6 → s.status.seqOk = true → s.status.layoutOk = false →
      s.status.planOk = false →
      (8 * (s.plan.databytes.toNat + s.plan.checkbytes.toNat) ≤ (freeInOrder s).length →
        (freeInOrder s).length ≤ s.plan.seqlen.toNat →
        ∃ t, exec .blSweep s = .next t
          ∧ t = { s with
              status := { s.status with layoutOk := true, err := .ok, busy := false }
              plan := { s.plan with freecnt := t.plan.freecnt }
              grid := t.grid }
          ∧ t.plan.freecnt.toNat = (freeInOrder s).length
          ∧ (∀ p r c, (freeInOrder s)[p]? = some (r, c) → t.cell r c = s.entry p)
          ∧ ∀ r c, c < 256 → (r, c) ∉ freeInOrder s → t.cell r c = s.cell r c)
      ∧ (¬ (8 * (s.plan.databytes.toNat + s.plan.checkbytes.toNat) ≤ (freeInOrder s).length
          ∧ (freeInOrder s).length ≤ s.plan.seqlen.toNat) →
        ∃ t, exec .blSweep s = .next t ∧ FatalEnding s t .sweepMismatch))
    ∧ (¬ (s.status.gridInit = true ∧ s.status.gpstep = 6 ∧ s.status.seqOk = true ∧ s.status.layoutOk = false
        ∧ s.status.planOk = false) →
      exec .blSweep s = .next (rejected s .badState))

/-- `BL.ALL` (rule R147) ends in the state its three commands, issued one by one, lead to, when the free cells of the grid
can hold the stream, and in the `Fatal` of `BL.PARAM` or of `BL.SWEEP` otherwise. -/
def Obligations.BlAllIsItsThreeCommands : Prop :=
  ∀ s : State, s.status.fatal = false → PlanShape s →
    (s.status.gridInit = true → s.status.gpstep = 6 → s.status.layoutOk = false → s.status.planOk = false →
      s.cfg.level.toNat ≤ 3 → levelSound s.capEntry s.cfg.level.toNat →
      8 * s.capEntry.bytes.toNat ≤ freeCells s → freeCells s ≤ 8 * s.capEntry.bytes.toNat + 7 →
      ∃ t, exec .blAll s = .next t ∧ Chain [.blParam, .blIlv, .blSweep] s t
        ∧ t.status.paramOk = true ∧ t.status.seqOk = true ∧ t.status.layoutOk = true ∧ t.status.fmtOk = false)
    ∧ (s.status.gridInit = true → s.status.gpstep = 6 → s.status.layoutOk = false → s.status.planOk = false →
      (¬ s.cfg.level.toNat ≤ 3 → exec .blAll s = .next (rejected s .invalidParameter))
      ∧ (s.cfg.level.toNat ≤ 3 → ¬ levelSound s.capEntry s.cfg.level.toNat →
        ∃ t, exec .blAll s = .next t ∧ FatalEnding s t .tableDefect)
      ∧ (s.cfg.level.toNat ≤ 3 → levelSound s.capEntry s.cfg.level.toNat →
        ¬ (8 * s.capEntry.bytes.toNat ≤ freeCells s ∧ freeCells s ≤ 8 * s.capEntry.bytes.toNat + 7) →
        ∃ t, exec .blAll s = .next t ∧ FatalEnding s t .sweepMismatch))
    ∧ (¬ (s.status.gridInit = true ∧ s.status.gpstep = 6 ∧ s.status.layoutOk = false ∧ s.status.planOk = false) →
      exec .blAll s = .next (rejected s .badState))

/-- The offsets of a finished grid (rules R46, R146): after `BL.ILV` and `BL.SWEEP` on a grid that holds no Data, Check or
Extra cell yet, each of the offsets `0 .. FREECNT−1` is on one cell and on no other. -/
def Obligations.FinishedGridHasEachOffsetOnce : Prop :=
  ∀ s t : State, PlanShape s → BlockShape s →
    (∀ r c, r < s.side → c < s.side → Role.masked (s.cell r c).role = false) →
    Chain [.blIlv, .blSweep] s t →
    (∀ o, o < t.plan.freecnt.toNat →
      ∃ r c, r < t.side ∧ c < t.side ∧ Role.masked (t.cell r c).role = true ∧ (t.cell r c).off.toNat = o)
    ∧ (∀ r c, r < t.side → c < t.side → Role.masked (t.cell r c).role = true →
      (t.cell r c).off.toNat < t.plan.freecnt.toNat)
    ∧ ∀ r c r' c', r < t.side → c < t.side → r' < t.side → c' < t.side → Role.masked (t.cell r c).role = true →
      Role.masked (t.cell r' c').role = true → (t.cell r c).off = (t.cell r' c').off → r = r' ∧ c = c'

/-! ### Format information -/

/-- `FI.ENC m` (rules R156, R159): the 32 format words, any two of which differ in at least 7 bits. -/
def Obligations.FiEncComputesFormatWord : Prop :=
  (∀ (m : Nat) (s : State), s.status.fatal = false →
    (s.status.paramOk = true → s.status.planOk = false → m ≤ 7 → s.plan.plancfg.level.toNat ≤ 3 →
      exec (.fiEnc m) s = .next { s with
        status := { s.status with fmtOk := true, err := .ok, busy := false }
        plan := { s.plan with fmtword := BitVec.ofNat 15 (tableFormatWord s.plan.plancfg.level.toNat m) } })
    ∧ (s.status.paramOk = true → s.status.planOk = false → ¬ m ≤ 7 →
      exec (.fiEnc m) s = .next (rejected s .invalidParameter))
    ∧ (¬ (s.status.paramOk = true ∧ s.status.planOk = false) → exec (.fiEnc m) s = .next (rejected s .badState)))
  ∧ ∀ l m l' m', l < 4 → m < 8 → l' < 4 → m' < 8 → (l, m) ≠ (l', m') →
    7 ≤ ((List.range 15).filter fun i => (tableFormatWord l m).testBit i != (tableFormatWord l' m').testBit i).length

/-- `FI.PAINT k` (rule R157): bit `i` of `FMTWORD` in both of its cells of `TPL[k]`, nothing else. -/
def Obligations.FiPaintWritesBothCopies : Prop :=
  ∀ (k : Nat) (s : State), s.status.fatal = false → PlanShape s →
    (s.status.gridInit = true → s.status.gpstep = 6 → s.status.fmtOk = true → s.status.planOk = false →
      (k ≤ 7 → k < s.ncopy →
        ∃ t, exec (.fiPaint k) s = .next t
          ∧ t = { s with status := { s.status with err := .ok, busy := false }, tpl := t.tpl }
          ∧ (∀ i r c, IsFormatCell s.side i r c → t.tplPixel k r c = s.plan.fmtword.getLsbD i)
          ∧ ∀ k' r c, k' < 8 → c < 8 * s.stride → ¬ (k' = k ∧ ∃ i, IsFormatCell s.side i r c) →
            t.tplPixel k' r c = s.tplPixel k' r c)
      ∧ (¬ (k ≤ 7 ∧ k < s.ncopy) → exec (.fiPaint k) s = .next (rejected s .badOperand)))
    ∧ (¬ (s.status.gridInit = true ∧ s.status.gpstep = 6 ∧ s.status.fmtOk = true ∧ s.status.planOk = false) →
      exec (.fiPaint k) s = .next (rejected s .badState))

/-- `FI.PLAN m, k` (rule R158) ends in the state `FI.ENC m` and `FI.PAINT k`, issued one by one, lead to. -/
def Obligations.FiPlanIsItsTwoCommands : Prop :=
  ∀ (m k : Nat) (s : State), s.status.fatal = false →
    (s.status.gridInit = true → s.status.gpstep = 6 → s.status.paramOk = true → s.status.planOk = false →
      (m ≤ 7 → k ≤ 7 → k < s.ncopy → ∃ t, exec (.fiPlan m k) s = .next t ∧ Chain [.fiEnc m, .fiPaint k] s t)
      ∧ (¬ m ≤ 7 → exec (.fiPlan m k) s = .next (rejected s .invalidParameter))
      ∧ (m ≤ 7 → ¬ (k ≤ 7 ∧ k < s.ncopy) → exec (.fiPlan m k) s = .next (rejected s .badOperand)))
    ∧ (¬ (s.status.gridInit = true ∧ s.status.gpstep = 6 ∧ s.status.paramOk = true ∧ s.status.planOk = false) →
      exec (.fiPlan m k) s = .next (rejected s .badState))

/-! ### The mask -/

/-- The eight mask functions (rule R165): their formulas, their period 12, and the spot values the rule prints. -/
def Obligations.MaskFunctionsAreTheFormulas : Prop :=
  (∀ r c,
    (mask 0 r c = true ↔ (r + c) % 2 = 0) ∧ (mask 1 r c = true ↔ r % 2 = 0) ∧ (mask 2 r c = true ↔ c % 3 = 0)
    ∧ (mask 3 r c = true ↔ (r + c) % 3 = 0) ∧ (mask 4 r c = true ↔ (r / 2 + c / 3) % 2 = 0)
    ∧ (mask 5 r c = true ↔ (r * c) % 2 + (r * c) % 3 = 0)
    ∧ (mask 6 r c = true ↔ ((r * c) % 2 + (r * c) % 3) % 2 = 0)
    ∧ (mask 7 r c = true ↔ ((r * c) % 3 + (r + c) % 2) % 2 = 0))
  ∧ (∀ m r c, mask m (r + 12) c = mask m r c ∧ mask m r (c + 12) = mask m r c)
  ∧ (List.range 8).map (fun m => mask m 20 20) = [true, true, false, false, true, false, false, false]
  ∧ (List.range 8).map (fun m => mask m 9 17) = [true, false, false, false, false, false, false, true]
  ∧ (List.range 8).map (fun m => mask m 5 7) = [true, false, false, true, true, false, false, true]

/-- `MK.APPLY m, k` (rules R166, R167): every Data, Check and Extra module of `TPL[k]` where the mask holds is flipped, and
nothing else; applied twice it restores every module. -/
def Obligations.MkApplyFlipsMaskedModules : Prop :=
  ∀ (m k : Nat) (s : State), s.status.fatal = false → PlanShape s →
    (s.status.layoutOk = true → s.status.planOk = false →
      (m ≤ 7 → k ≤ 7 → k < s.ncopy →
        ∃ t, exec (.mkApply m k) s = .next t
          ∧ t = { s with status := { s.status with err := .ok, busy := false }, tpl := t.tpl }
          ∧ (∀ k' r c, k' < 8 → c < 8 * s.stride →
            t.tplPixel k' r c =
              (s.tplPixel k' r c ^^ (k' == k && decide (r < s.side) && decide (c < s.side)
                && ((s.cell r c).role == .data || (s.cell r c).role == .check || (s.cell r c).role == .extra)
                && mask m r c)))
          ∧ ∃ u, exec (.mkApply m k) t = .next u
            ∧ ∀ k' r c, k' < 8 → c < 8 * s.stride → u.tplPixel k' r c = s.tplPixel k' r c)
      ∧ (¬ m ≤ 7 → exec (.mkApply m k) s = .next (rejected s .invalidParameter))
      ∧ (m ≤ 7 → ¬ (k ≤ 7 ∧ k < s.ncopy) → exec (.mkApply m k) s = .next (rejected s .badOperand)))
    ∧ (¬ (s.status.layoutOk = true ∧ s.status.planOk = false) →
      exec (.mkApply m k) s = .next (rejected s .badState))

/-! ### The penalty scorer -/

/-- `PS.RUN src` (rule R172): the run term of the bitmap, the sum over its rows and columns; a line's term is the sum over its
maximal runs, `n − 2` for a run of length `n ≥ 5`. -/
def Obligations.PsRunAddsMaximalRuns : Prop :=
  (∀ (src : Nat) (s : State), s.status.fatal = false → src ≤ 2 → scoredReady src s = true →
    exec (.psRun src) s = .next { s with
      status := { s.status with penOk := false, err := .ok, busy := false }
      pen := { s.pen with run := BitVec.ofNat 32 (runTerm (scored src s).1 (scored src s).2) } })
  ∧ (∀ (side : Nat) (b : Modules),
    runTerm side b = ∑ x ∈ Finset.range side,
      (lineRun ((List.range side).map (b x)) + lineRun ((List.range side).map fun r => b r x)))
  ∧ lineRun [] = 0
  ∧ ∀ (n : Nat) (colour : Bool) (rest : List Bool), 1 ≤ n → rest.head? ≠ some colour →
    lineRun (List.replicate n colour ++ rest) = (if 5 ≤ n then n - 2 else 0) + lineRun rest

/-- `PS.BOX src` (rule R173): 3 for every 2×2 block of one colour. -/
def Obligations.PsBoxCountsBlocks : Prop :=
  (∀ (src : Nat) (s : State), s.status.fatal = false → src ≤ 2 → scoredReady src s = true →
    exec (.psBox src) s = .next { s with
      status := { s.status with penOk := false, err := .ok, busy := false }
      pen := { s.pen with box := BitVec.ofNat 32 (boxTerm (scored src s).1 (scored src s).2) } })
  ∧ ∀ (side : Nat) (b : Modules),
    boxTerm side b = 3 * ((cells (side - 1)).filter fun p =>
      b (p.1 + 1) (p.2 + 1) = b p.1 (p.2 + 1) ∧ b (p.1 + 1) (p.2 + 1) = b (p.1 + 1) p.2
        ∧ b (p.1 + 1) (p.2 + 1) = b p.1 p.2).card

/-- `PS.FIND src` (rules R174 to R177): 40 for every occurrence of `P1` or `P2` in a line, in the window of
`FINDER_EDGE`. -/
def Obligations.PsFindCountsOccurrences : Prop :=
  (∀ (src : Nat) (s : State), s.status.fatal = false → src ≤ 2 → scoredReady src s = true →
    exec (.psFind src) s = .next { s with
      status := { s.status with penOk := false, err := .ok, busy := false }
      pen := { s.pen with
        find := BitVec.ofNat 32 (findTerm s.config.finderEdge (scored src s).1 (scored src s).2) } })
  ∧ (∀ (edge : FinderEdge) (side : Nat) (b : Modules),
    findTerm edge side b = ∑ x ∈ Finset.range side,
      (lineFind edge ((List.range side).map (b x)) + lineFind edge ((List.range side).map fun r => b r x)))
  ∧ patternP1 = [0, 0, 0, 0, 1, 0, 1, 1, 1, 0, 1, 0].map (fun x => x == 1) ∧ patternP2 = patternP1.reverse
  ∧ ∀ line : List Bool,
    lineFind .core9 line = 40 * (occurrences line patternP1 (-3) (line.length - 12)).card
      + 40 * (occurrences line patternP2 0 (line.length - 9)).card
    ∧ lineFind .core7 line = 40 * (occurrences line patternP1 (-4) (line.length - 11)).card
      + 40 * (occurrences line patternP2 (-1) (line.length - 8)).card

/-- `PS.BAL src` (rule R178): `(9 − floor(20·f / S²))·10` with `f` the lesser of the black and the white modules; for an odd
side one of 0, 10, …, 90. -/
def Obligations.PsBalFoldsTheBlackCount : Prop :=
  (∀ (src : Nat) (s : State), s.status.fatal = false → src ≤ 2 → scoredReady src s = true →
    exec (.psBal src) s = .next { s with
      status := { s.status with penOk := false, err := .ok, busy := false }
      pen := { s.pen with bal := BitVec.ofNat 32 (balTerm (scored src s).1 (scored src s).2) } })
  ∧ ∀ (side : Nat) (b : Modules), side % 2 = 1 →
    let black := ((cells side).filter fun p => b p.1 p.2 = true).card
    let f := min black (side * side - black)
    f * 20 / (side * side) ≤ 9 ∧ balTerm side b + 10 * (f * 20 / (side * side)) = 90

/-- `PS.SCORE src` (rule R179): the four terms of one bitmap and their sum, `PEN_OK = 1`; `PENM`, `BESTMASK` and `CANDMASK` are
not written. All five `PS.*` commands end with `BadState` when the bitmap is not ready and with `BadOperand` when there is
none (rule R170). -/
def Obligations.PsScoreAddsTheFourTerms : Prop :=
  (∀ (src : Nat) (s : State), s.status.fatal = false →
    ∀ i ∈ [Instr.psRun src, .psBox src, .psFind src, .psBal src, .psScore src],
      (src ≤ 2 → scoredReady src s = false → exec i s = .next (rejected s .badState))
      ∧ (¬ src ≤ 2 → exec i s = .next (rejected s .badOperand)))
  ∧ ∀ (src : Nat) (s : State), s.status.fatal = false → src ≤ 2 → scoredReady src s = true →
    let side := (scored src s).1
    let b := (scored src s).2
    exec (.psScore src) s = .next { s with
      status := { s.status with penOk := true, err := .ok, busy := false }
      pen := { s.pen with
        run := BitVec.ofNat 32 (runTerm side b)
        box := BitVec.ofNat 32 (boxTerm side b)
        find := BitVec.ofNat 32 (findTerm s.config.finderEdge side b)
        bal := BitVec.ofNat 32 (balTerm side b)
        total := BitVec.ofNat 32
          (runTerm side b + boxTerm side b + findTerm s.config.finderEdge side b + balTerm side b) } }

/-- No overflow (rule R181): the bounds of a line's terms, of the four terms for a side of at most 177, and of the total, which
a register of 32 bits holds exactly. -/
def Obligations.PenaltyTermsAreBounded : Prop :=
  (∀ (edge : FinderEdge) (line : List Bool),
    lineRun line ≤ line.length - 2 ∧ lineFind edge line ≤ 40 * (2 * (line.length + 1)))
  ∧ ∀ (edge : FinderEdge) (side : Nat) (b : Modules), side ≤ 177 →
    runTerm side b ≤ 61950 ∧ boxTerm side b ≤ 92928 ∧ findTerm edge side b ≤ 5040960 ∧ balTerm side b ≤ 90
      ∧ penalty edge side b < 2 ^ 23 ∧ (BitVec.ofNat 32 (penalty edge side b)).toNat = penalty edge side b

/-- The penalty is the sum of the four terms and a function of the modules of the symbol alone, and swapping black and white leaves the run, box and balance
terms unchanged but not always the finder term (rule R180). -/
def Obligations.PenaltyDependsOnModulesAlone : Prop :=
  (∀ (edge : FinderEdge) (side : Nat) (b b' : Modules), (∀ r c, r < side → c < side → b r c = b' r c) →
    penalty edge side b = penalty edge side b')
  ∧ (∀ (edge : FinderEdge) (side : Nat) (b : Modules),
    penalty edge side b = runTerm side b + boxTerm side b + findTerm edge side b + balTerm side b)
  ∧ (∀ (side : Nat) (b : Modules), runTerm side (fun r c => !b r c) = runTerm side b
    ∧ boxTerm side (fun r c => !b r c) = boxTerm side b ∧ balTerm side (fun r c => !b r c) = balTerm side b)
  ∧ ∃ b : Modules, findTerm .core9 21 (fun r c => !b r c) ≠ findTerm .core9 21 b

/-! ### Placing, candidates and selection -/

/-- `EN.PLACE` (rule R191): `WORK` is the ground (a copy of `TPL[0]`, or white) with each Data and Check cell's codeword bit
XORed in; or `Fatal(ByteCountMismatch)`. -/
def Obligations.EnPlaceXorsCodewordBits : Prop :=
  ∀ s : State, s.status.fatal = false → PlanShape s →
    (s.status.layoutOk = true →
      (s.cwlen.toNat = s.capEntry.bytes.toNat →
        ∃ t, exec .enPlace s = .next t
          ∧ t = { s with
              status := { s.status with workOk := true, candOk := false, penOk := false, err := .ok, busy := false }
              work := t.work }
          ∧ (∀ r c, r < s.side → c < 8 * s.stride →
            t.workPixel r c =
              ((s.ncopy == 1 && s.tplPixel 0 r c) ^^ (decide (c < s.side)
                && ((s.cell r c).role == .data || (s.cell r c).role == .check)
                && (s.cwByte ((s.cell r c).off.toNat / 8)).getLsbD (7 - (s.cell r c).off.toNat % 8))))
          ∧ ∀ j, s.stride * s.side ≤ j → t.workByte j = s.workByte j)
      ∧ (s.cwlen.toNat ≠ s.capEntry.bytes.toNat →
        ∃ t, exec .enPlace s = .next t ∧ FatalEnding s t .byteCountMismatch))
    ∧ (s.status.layoutOk = false → exec .enPlace s = .next (rejected s .badState))

/-- `EN.CAND k` (rule R192): `CAND` is `WORK xor TPL[k]`, byte by byte. -/
def Obligations.EnCandXorsTemplate : Prop :=
  ∀ (k : Nat) (s : State), s.status.fatal = false →
    (s.status.workOk = true → s.ncopy = 8 →
      (k ≤ 7 →
        ∃ t, exec (.enCand k) s = .next t
          ∧ t = { s with
              status := { s.status with candOk := true, penOk := false, err := .ok, busy := false }
              pen := { s.pen with candmask := BitVec.ofNat 3 k }
              cand := t.cand }
          ∧ ∀ j, t.candByte j = if j < s.stride * s.side then s.workByte j ^^^ s.tplByte k j else s.candByte j)
      ∧ (¬ k ≤ 7 → exec (.enCand k) s = .next (rejected s .badOperand)))
    ∧ (¬ (s.status.workOk = true ∧ s.ncopy = 8) → exec (.enCand k) s = .next (rejected s .badState))

/-- `EN.KEEP` (rule R193): the candidate becomes the Code. -/
def Obligations.EnKeepCopiesCandidate : Prop :=
  ∀ s : State, s.status.fatal = false →
    (s.status.candOk = true →
      ∃ t, exec .enKeep s = .next t
        ∧ t = { s with
            status := { s.status with codeOk := true, err := .ok, busy := false }
            pen := { s.pen with bestmask := s.pen.candmask }
            code := ⟨s.plan.side, s.plan.stride⟩
            out := t.out }
        ∧ ∀ j, t.outByte j = if j < s.stride * s.side then s.candByte j else s.outByte j)
    ∧ (s.status.candOk = false → exec .enKeep s = .next (rejected s .badState))

/-- `EN.SELECT` with one template (rule R194): `WORK` becomes the Code and nothing is scored. -/
def Obligations.EnSelectReturnsTheOnlyBitmap : Prop :=
  ∀ s : State, s.status.fatal = false →
    (s.status.workOk = true → s.ncopy = 1 →
      ∃ t, exec .enSelect s = .next t
        ∧ t = { s with
            status := { s.status with codeOk := true, penOk := false, err := .ok, busy := false }
            code := ⟨s.plan.side, s.plan.stride⟩
            out := t.out }
        ∧ ∀ j, t.outByte j = if j < s.stride * s.side then s.workByte j else s.outByte j)
    ∧ (s.status.workOk = false → exec .enSelect s = .next (rejected s .badState))

/-- `EN.SELECT` with eight templates (rule R194): every candidate scored, the least penalty kept, a tie keeps the lowest mask
index. -/
def Obligations.EnSelectKeepsLeastPenalty : Prop :=
  ∀ s : State, s.status.fatal = false → PlanShape s → s.status.workOk = true → s.ncopy = 8 →
    ∃ t best, exec .enSelect s = .next t ∧ best < 8
      ∧ (∀ k, k < 8 → penalty s.config.finderEdge s.side (candidate s best)
          ≤ penalty s.config.finderEdge s.side (candidate s k))
      ∧ (∀ k, k < best → penalty s.config.finderEdge s.side (candidate s best)
          < penalty s.config.finderEdge s.side (candidate s k))
      ∧ t = { s with
          status := { s.status with
            codeOk := true, candOk := true, penOk := true, err := .ok, busy := false }
          pen := t.pen
          code := ⟨s.plan.side, s.plan.stride⟩
          cand := t.cand
          out := t.out }
      ∧ t.pen.bestmask = BitVec.ofNat 3 best ∧ t.pen.candmask = 7
      ∧ (∀ k, k < 8 → (t.penm k).toNat = penalty s.config.finderEdge s.side (candidate s k))
      ∧ t.pen.run.toNat = runTerm s.side (candidate s 7) ∧ t.pen.box.toNat = boxTerm s.side (candidate s 7)
      ∧ t.pen.find.toNat = findTerm s.config.finderEdge s.side (candidate s 7)
      ∧ t.pen.bal.toNat = balTerm s.side (candidate s 7) ∧ t.pen.total = t.penm 7
      ∧ (∀ j, t.outByte j = if j < s.stride * s.side then s.workByte j ^^^ s.tplByte best j else s.outByte j)
      ∧ ∀ j, t.candByte j = if j < s.stride * s.side then s.workByte j ^^^ s.tplByte 7 j else s.candByte j

/-- `EN.ENCODE` (rule R195) ends in the state `EN.PLACE` and `EN.SELECT`, issued one by one, lead to. -/
def Obligations.EnEncodeIsItsTwoCommands : Prop :=
  ∀ s : State, s.status.fatal = false →
    (s.status.layoutOk = true →
      (s.cwlen.toNat = s.capEntry.bytes.toNat →
        ∃ t, exec .enEncode s = .next t ∧ Chain [.enPlace, .enSelect] s t
          ∧ t.status.workOk = true ∧ t.status.codeOk = true
          ∧ (s.ncopy = 8 → t.status.candOk = true ∧ t.status.penOk = true)
          ∧ (s.ncopy = 1 → t.status.candOk = false ∧ t.status.penOk = false))
      ∧ (s.cwlen.toNat ≠ s.capEntry.bytes.toNat →
        ∃ t, exec .enEncode s = .next t ∧ FatalEnding s t .byteCountMismatch))
    ∧ (s.status.layoutOk = false → exec .enEncode s = .next (rejected s .badState))

/-! ### The plan -/

/-- `PL.PLAN` (rules R186, R187) completes for every legal version, level and mask whose `CAP` record meets rule R41, and
leaves what the step commands leave, issued one by one for the same version, level and masks, but that the plan is sealed and
`PLANCFG.MASK` latched. -/
def Obligations.PlPlanIsTheHandBuiltPlanSealed : Prop :=
  ∀ s : State, s.status.fatal = false →
    (1 ≤ s.cfg.version.toNat → s.cfg.version.toNat ≤ 40 → s.cfg.level.toNat ≤ 3 →
      (s.cfg.mask.toNat ≤ 7 ∨ s.cfg.mask.toNat = 15) →
      alignSound (capRecord s.config s.cfg.version.toNat) →
      levelSound (capRecord s.config s.cfg.version.toNat) s.cfg.level.toNat →
      8 * (capRecord s.config s.cfg.version.toNat).bytes.toNat
        ≤ plannedFree (capRecord s.config s.cfg.version.toNat) s.cfg.version.toNat →
      plannedFree (capRecord s.config s.cfg.version.toNat) s.cfg.version.toNat
        ≤ 8 * (capRecord s.config s.cfg.version.toNat).bytes.toNat + 7 →
      ∃ t u, exec .plPlan s = .next t
        ∧ t = { u with
            status := { u.status with planOk := true }
            plan := { u.plan with plancfg := { u.plan.plancfg with mask := s.cfg.mask } } }
        ∧ (s.cfg.mask.toNat ≤ 7 →
          Chain [.gpAll 1, .blAll, .fiPlan s.cfg.mask.toNat 0, .mkApply s.cfg.mask.toNat 0] s u)
        ∧ (s.cfg.mask.toNat = 15 →
          Chain ([.gpAll 8, .blAll] ++ (List.range 8).flatMap fun k => [.fiPlan k k, .mkApply k k]) s u))
    ∧ (¬ (1 ≤ s.cfg.version.toNat ∧ s.cfg.version.toNat ≤ 40 ∧ s.cfg.level.toNat ≤ 3
        ∧ (s.cfg.mask.toNat ≤ 7 ∨ s.cfg.mask.toNat = 15)) →
      exec .plPlan s = .next (rejected s .invalidParameter))

/-- The templates of a sealed plan (rule R49): the fixed colour, the format bit, or the mask, by the role of the cell; and no
cell of the grid is Unassigned (rules R46, R146). -/
def Obligations.PlanTemplatesByRole : Prop :=
  ∀ s t : State, s.status.fatal = false → alignSound (capRecord s.config s.cfg.version.toNat) →
    exec .plPlan s = .next t → t.status.err = .ok →
    (∀ r c, r < t.side → c < t.side → (t.cell r c).role ≠ .unassigned)
    ∧ ∃ g, exec (.gpAll t.ncopy) s = .next g
      ∧ ∀ k r c, k < t.ncopy → r < t.side → c < t.side →
        let m := if t.ncopy = 1 then t.plan.plancfg.mask.toNat else k
        t.tplPixel k r c =
          match (t.cell r c).role with
          | .format => (tableFormatWord t.plan.plancfg.level.toNat m).testBit (t.cell r c).off.toNat
          | .data | .check | .extra => mask m r c
          | .unassigned | .position | .alignment | .timing | .versionPattern | .unused => g.tplPixel k r c

/-! ### The host's accesses -/

/-- A host access is one step that answers on the bus; a read, and a refused write, change nothing of QRGP (rules R82,
R87). -/
def Obligations.ReadsAndRefusedWritesChangeNothing : Prop :=
  ∀ (s : State) (addr : BitVec 20) (width : Nat) (es : List Event),
    (s.port.events = .read addr width :: es →
      step s = .next { s with
        port := ⟨es, some (match memRead s addr width with | some v => .data v | none => .refused)⟩ })
    ∧ ∀ value : Word, s.port.events = .write addr width value :: es →
      (memWrite s addr width value = none → step s = .next { s with port := ⟨es, some .refused⟩ })
      ∧ ∀ t, memWrite s addr width value = some t → step s = .next { t with port := ⟨es, some .stored⟩ }

/-- While `BUSY = 1` the host reads `STATUS` and `ID` and nothing else, and writes nothing (rules R85, R34). -/
def Obligations.BusyHostSeesStatusAndIdOnly : Prop :=
  ∀ (s : State) (addr : BitVec 20) (width : Nat) (value : Word), s.status.busy = true →
    memWrite s addr width value = none
    ∧ memRead s addr width =
      if width = 4 ∧ addr.toNat = 0x00 then some 0x51524750
      else if width = 4 ∧ addr.toNat = 0x08 then some s.status.word
      else none

/-- The accepted writes and what each stores (rules R22, R25, R34, R52, R84): `CMD`, `CFG`, `CWLEN`, `CW`, and no other, and
none while `BUSY = 1`; `CMD` is never read. That a byte write stores the low byte of the value, and a byte read has zeros above
the byte, is the model's choice (log entry 16). -/
def Obligations.AcceptedWritesAndTheirEffects : Prop :=
  (∀ (s : State) (addr : BitVec 20) (width : Nat) (value : Word), s.status.busy = true →
    memWrite s addr width value = none)
  ∧ (∀ s : State, memRead s 0x04 4 = none)
  ∧ ∀ (s : State) (addr : BitVec 20) (width : Nat) (value : Word), s.status.busy = false →
    (width = 4 → addr.toNat = 0x04 → memWrite s addr width value
      = some { s with pending := value, status := { s.status with busy := true } })
    ∧ (width = 4 → addr.toNat = 0x0C → ∃ t, memWrite s addr width value = some t ∧ t = { s with cfg := t.cfg }
      ∧ t.cfg.version.toNat = value.toNat % 256 ∧ t.cfg.level.toNat = value.toNat / 256 % 16
      ∧ t.cfg.mask.toNat = value.toNat / 4096 % 16 ∧ memRead t addr 4 = some (value &&& 0xFFFF))
    ∧ (width = 4 → addr.toNat = 0x10 → ∃ t, memWrite s addr width value = some t ∧ t = { s with cwlen := t.cwlen }
      ∧ t.cwlen.toNat = value.toNat % 8192 ∧ memRead t addr 4 = some (value &&& 0x1FFF))
    ∧ (width = 1 → 0x1000 ≤ addr.toNat → addr.toNat < 0x2000 →
      ∃ t, memWrite s addr width value = some t ∧ t = { s with cw := t.cw }
        ∧ memRead t addr 1 = some (value &&& 0xFF)
        ∧ ∀ j, j ≠ addr.toNat - 0x1000 → t.cwByte j = s.cwByte j)
    ∧ (¬ (width = 4 ∧ addr.toNat ∈ [0x04, 0x0C, 0x10]) → ¬ (width = 1 ∧ 0x1000 ≤ addr.toNat ∧ addr.toNat < 0x2000) →
      memWrite s addr width value = none)

/-- What the host reads while the engine is idle: the table of rule R86, at the addresses of rule R80, with the widths and the
alignment of rule R81. That the value of a byte read has zeros above the byte is the model's choice (log entry 16). -/
def Obligations.IdleReadsOfEveryLocation : Prop :=
  ∀ s : State, s.status.busy = false →
    (∀ p ∈ registerMap s, memRead s (BitVec.ofNat 20 p.1) 4 = some p.2)
    ∧ (∀ addr : BitVec 20, addr.toNat < 0x100 → addr.toNat ∉ (registerMap s).map Prod.fst → memRead s addr 4 = none)
    ∧ (∀ v i, v < 64 → i < 8 → memRead s (BitVec.ofNat 20 (0x800 + 32 * v + 4 * i)) 4 =
      if 1 ≤ v ∧ v ≤ 40 then some (recordWord (capRecord s.config v) i) else some 0)
    ∧ (∀ j, j < 0x1000 → memRead s (BitVec.ofNat 20 (0x1000 + j)) 1 = some ((s.cwByte j).setWidth 32))
    ∧ (∀ j, j < 0x1000 → memRead s (BitVec.ofNat 20 (0x2000 + j)) 1 =
      if s.status.codeOk ∧ j < s.code.stride.toNat * s.code.side.toNat then some ((s.outByte j).setWidth 32) else none)
    ∧ (∀ j, j < 0x1000 → memRead s (BitVec.ofNat 20 (0x3000 + j)) 1 =
      if s.status.workOk ∧ j < s.stride * s.side then some ((s.workByte j).setWidth 32) else none)
    ∧ (∀ j, j < 0x1000 → memRead s (BitVec.ofNat 20 (0x4000 + j)) 1 =
      if s.status.candOk ∧ j < s.stride * s.side then some ((s.candByte j).setWidth 32) else none)
    ∧ (∀ k j, k < 8 → j < 0x1000 → memRead s (BitVec.ofNat 20 (0x8000 + 0x1000 * k + j)) 1 =
      if s.status.gridInit ∧ k < s.ncopy ∧ j < s.stride * s.side then some ((s.tplByte k j).setWidth 32) else none)
    ∧ (∀ r c, r < 256 → c < 256 → memRead s (BitVec.ofNat 20 (0x40000 + 4 * (256 * r + c))) 4 =
      if s.status.gridInit ∧ r < s.side ∧ c < s.side then some (cellWord (s.cell r c)) else none)
    ∧ (∀ i, i < 32768 → memRead s (BitVec.ofNat 20 (0x80000 + 4 * i)) 4 =
      if s.status.seqOk ∧ i < s.plan.seqlen.toNat then some (cellWord (s.entry i)) else none)
    ∧ (∀ (addr : BitVec 20) (width : Nat), width ≠ 1 → width ≠ 4 → memRead s addr width = none)
    ∧ (∀ addr : BitVec 20, addr.toNat % 4 ≠ 0 → memRead s addr 4 = none)
    ∧ (∀ addr : BitVec 20, addr.toNat < 0x1000 ∨ (0x5000 ≤ addr.toNat ∧ addr.toNat < 0x8000) ∨ 0x10000 ≤ addr.toNat →
      memRead s addr 1 = none)
    ∧ ∀ addr : BitVec 20, (0x100 ≤ addr.toNat ∧ addr.toNat < 0x800) ∨ (0x1000 ≤ addr.toNat ∧ addr.toNat < 0x40000)
        ∨ 0xA0000 ≤ addr.toNat → memRead s addr 4 = none

/-- The layout of the words the host reads: `STATUS` (rule R35) with the numbers of the outcomes (rule R211), a cell (rule R45)
with the numbers of the roles (rule R44), `PLANCFG` (rule R26). -/
def Obligations.WordsHaveTheirFields : Prop :=
  (∀ st : Status,
    st.word.getLsbD 0 = st.busy ∧ st.word.getLsbD 1 = st.fatal ∧ st.word.toNat / 4 % 4 = 0
    ∧ st.word.toNat / 16 % 16 = (match st.err with
      | .ok => 0 | .invalidParameter => 1 | .illegalCommand => 2 | .badState => 3 | .badOperand => 4 | .locked => 5
      | .fatalRaised => 6)
    ∧ st.word.getLsbD 8 = st.gridInit
    ∧ st.word.toNat / 512 % 8 = st.gpstep.val ∧ st.word.getLsbD 12 = st.paramOk ∧ st.word.getLsbD 13 = st.seqOk
    ∧ st.word.getLsbD 14 = st.layoutOk ∧ st.word.getLsbD 15 = st.fmtOk ∧ st.word.getLsbD 16 = st.planOk
    ∧ st.word.getLsbD 17 = st.workOk ∧ st.word.getLsbD 18 = st.candOk ∧ st.word.getLsbD 19 = st.penOk
    ∧ st.word.getLsbD 20 = st.codeOk ∧ st.word.toNat < 2 ^ 21)
  ∧ (∀ x : Cell, (cellWord x).toNat % 16 = (match x.role with
      | .unassigned => 0 | .position => 1 | .alignment => 2 | .timing => 3 | .format => 4 | .versionPattern => 5
      | .unused => 6 | .data => 7 | .check => 8 | .extra => 9)
    ∧ (cellWord x).toNat / 16 = x.off.toNat)
  ∧ ∀ x : Selection, x.word.toNat % 256 = x.version.toNat ∧ x.word.toNat / 256 % 16 = x.level.toNat
    ∧ x.word.toNat / 4096 = x.mask.toNat

/-! ### Invariants and rules of the whole machine -/

/-- Every step keeps every memory in canonical form. -/
def Obligations.StepKeepsMemoriesCanonical : Prop :=
  ∀ s t : State, Canonical s → step s = .next t → Canonical t

/-- The invariants hold after reset. -/
def Obligations.InvariantsHoldAfterReset : Prop :=
  Canonical State.reset ∧ PlanCoherent State.reset ∧ FlagsCoherent State.reset ∧ LayoutCoherent State.reset

/-- Every step keeps the plan registers coherent while `GRID_INIT = 1` (rules R26 to R28). -/
def Obligations.StepKeepsPlanCoherent : Prop :=
  ∀ s t : State, PlanCoherent s → step s = .next t → PlanCoherent t

/-- Every step keeps the implications between the flags that rules R35 and R108 state (`LAYOUT_OK = 1` implies `GRID_OK` and
`PARAM_OK = 1`, and the rest of `FlagsCoherent`). -/
def Obligations.StepKeepsFlagsCoherent : Prop :=
  ∀ s t : State, PlanCoherent s → FlagsCoherent s → step s = .next t → FlagsCoherent t

/-- Every step keeps the block-layout registers in agreement with `CAP`, `SEQLEN` and `FREECNT` (rules R29 to R31, R141,
R146). -/
def Obligations.StepKeepsLayoutCoherent : Prop :=
  ∀ s t : State, FlagsCoherent s → LayoutCoherent s → step s = .next t → LayoutCoherent t

/-- A plan is read-only once built (rule R190): no `EN.*` or `PS.*` command writes it, and while `PLAN_OK = 1` no command does
but the three that start a plan, `RESET`, and one that raises a `Fatal`. -/
def Obligations.BuiltPlanIsReadOnly : Prop :=
  ∀ (i : Instr) (s t : State), exec i s = .next t → t.status.fatal = s.status.fatal →
    ((i = .enPlace ∨ (∃ k, i = .enCand k) ∨ i = .enKeep ∨ i = .enSelect ∨ i = .enEncode
        ∨ ∃ src, i = .psRun src ∨ i = .psBox src ∨ i = .psFind src ∨ i = .psBal src ∨ i = .psScore src)
      ∨ (FlagsCoherent s ∧ s.status.planOk = true ∧ i ≠ .reset ∧ i ≠ .plPlan ∧ (∀ n, i ≠ .gpInit n)
        ∧ ∀ n, i ≠ .gpAll n)) →
    t.grid = s.grid ∧ t.seq = s.seq ∧ t.tpl = s.tpl ∧ t.plan = s.plan ∧ t.engineStamp = s.engineStamp

/-- "No command writes `CW`, `CFG` or `CWLEN`" (rule R94), `RESET` apart; and no step changes the parameters. -/
def Obligations.CommandsKeepHostInputs : Prop :=
  (∀ (i : Instr) (s t : State), i ≠ .reset → exec i s = .next t →
    t.cfg = s.cfg ∧ t.cwlen = s.cwlen ∧ (∀ j, t.cwByte j = s.cwByte j) ∧ t.pending = s.pending ∧ t.port = s.port)
  ∧ ∀ s t : State, step s = .next t → t.config = s.config
end

