-- ==== Sys2Proof/Laws/Memory.lean ====
section
/-! SUPPORT. The laws of one memory: a read after a write gives the value written, a write leaves every other location
alone, and every operation keeps the canonical form. -/

namespace Sys2Proof.Machine

variable {α : Type}

/-! ### Reads after writes -/

@[simp] theorem Memory.get?_nil (i : Nat) : Memory.get? ([] : Memory α) i = none := rfl

theorem Memory.get?_cons (k : Nat) (v : α) (m : Memory α) (i : Nat) :
    Memory.get? ((k, v) :: m) i = if k = i then some v else Memory.get? m i := rfl

theorem Memory.get?_set (m : Memory α) (i j : Nat) (v : α) :
    Memory.get? (Memory.set m i v) j = if i = j then some v else Memory.get? m j := by
  induction m with
  | nil => simp [Memory.set, Memory.get?_cons]
  | cons p m ih =>
    obtain ⟨k, w⟩ := p
    simp only [Memory.set]
    split
    · simp [Memory.get?_cons]
    · split
      · subst_vars; simp only [Memory.get?_cons]; split <;> simp_all
      · simp only [Memory.get?_cons, ih]; split <;> split <;> simp_all

theorem Memory.get?_set_self (m : Memory α) (i : Nat) (v : α) : Memory.get? (Memory.set m i v) i = some v := by
  simp [Memory.get?_set]

theorem Memory.get?_set_of_ne (m : Memory α) {i j : Nat} (v : α) (h : i ≠ j) :
    Memory.get? (Memory.set m i v) j = Memory.get? m j := by
  simp [Memory.get?_set, h]

theorem Memory.get?_append (m n : Memory α) (i : Nat) :
    Memory.get? (m ++ n) i = (Memory.get? m i).or (Memory.get? n i) := by
  induction m with
  | nil => simp
  | cons p m ih =>
    obtain ⟨k, w⟩ := p
    simp only [List.cons_append, Memory.get?_cons, ih]
    split <;> simp

theorem Memory.get?_filter (m : Memory α) (f : Nat → Bool) (i : Nat) :
    Memory.get? (m.filter fun p => f p.1) i = if f i then Memory.get? m i else none := by
  induction m with
  | nil => simp
  | cons p m ih =>
    obtain ⟨k, w⟩ := p
    simp only [List.filter_cons]
    by_cases hk : f k = true
    · simp only [hk, if_true, Memory.get?_cons, ih]
      by_cases h : k = i
      · subst h; simp [hk]
      · simp [h]
    · rw [if_neg hk, ih, Memory.get?_cons]
      by_cases h : k = i
      · subst h; simp [hk]
      · simp [h]

theorem Memory.get?_enumerate (vs : List α) (b i : Nat) :
    Memory.get? (Memory.enumerate b vs) i = if i < b then none else vs[i - b]? := by
  induction vs generalizing b with
  | nil => simp [Memory.enumerate]
  | cons v vs ih =>
    simp only [Memory.enumerate, Memory.get?_cons, ih]
    by_cases h1 : b = i
    · subst h1; simp
    · by_cases h2 : i < b
      · simp [h1, h2, show i < b + 1 by omega]
      · have h3 : ¬ i < b + 1 := by omega
        have h4 : i - b = (i - (b + 1)) + 1 := by omega
        simp [h1, h2, h3, h4]

/-- A read after writing the whole list: the list's values, then what stood there before. -/
theorem Memory.get?_writeList (m : Memory α) (vs : List α) (i : Nat) :
    Memory.get? (Memory.writeList m vs) i = if i < vs.length then vs[i]? else Memory.get? m i := by
  unfold Memory.writeList
  rw [Memory.get?_append, Memory.get?_enumerate, Memory.get?_filter m (fun k => decide (vs.length ≤ k))]
  by_cases h : i < vs.length
  · simp [h]
  · simp [h, Nat.not_lt.mp h]

theorem Memory.get?_setMany_of_not_mem (m : Memory α) (l : List (Nat × α)) (i : Nat) (h : ∀ p ∈ l, p.1 ≠ i) :
    Memory.get? (Memory.setMany m l) i = Memory.get? m i := by
  induction l with
  | nil => rfl
  | cons p l ih =>
    simp only [Memory.setMany, List.foldr_cons]
    rw [Memory.get?_set_of_ne _ _ (h p (by simp))]
    exact ih fun q hq => h q (by simp [hq])

theorem Memory.get?_setMany_const (m : Memory α) (l : List (Nat × α)) (i : Nat) (v : α) (h : ∀ p ∈ l, p.2 = v)
    (hi : ∃ p ∈ l, p.1 = i) : Memory.get? (Memory.setMany m l) i = some v := by
  induction l with
  | nil => simp at hi
  | cons p l ih =>
    simp only [Memory.setMany, List.foldr_cons, Memory.get?_set]
    split
    · rw [h p (by simp)]
    · rename_i hp
      obtain ⟨q, hq, rfl⟩ := hi
      rcases List.mem_cons.mp hq with rfl | hq
      · exact absurd rfl hp
      · exact ih (fun r hr => h r (by simp [hr])) ⟨q, hq, rfl⟩

/-! ### The grid -/

@[simp] theorem mem_coordinates (side r c : Nat) : (r, c) ∈ coordinates side ↔ r < side ∧ c < side := by
  simp [coordinates]

theorem cellIndex_inj {r c r' c' : Nat} (hc : c < 256) (hc' : c' < 256) :
    cellIndex r c = cellIndex r' c' ↔ r = r' ∧ c = c' := by
  unfold cellIndex; omega

/-- `GP.INIT`'s clearing: the cells of the grid are blank, every other cell is what it was. -/
theorem get?_clearGrid (side r c : Nat) (grid : Memory Cell) (hs : side ≤ 256) (hc : c < 256) :
    Memory.get? (clearGrid side grid) (cellIndex r c) =
      if r < side ∧ c < side then some Cell.blank else Memory.get? grid (cellIndex r c) := by
  unfold clearGrid
  by_cases h : r < side ∧ c < side
  · rw [if_pos h]
    refine Memory.get?_setMany_const _ _ _ _ (by simp; rintro _ _ _ _ _ _ _ rfl; rfl) ?_
    exact ⟨(cellIndex r c, Cell.blank), by simpa using ⟨r, c, h, rfl⟩, rfl⟩
  · rw [if_neg h, Memory.get?_setMany_of_not_mem]
    · rw [Memory.get?_filter grid (fun k => decide ¬ (k / 256 < side ∧ k % 256 < side))]
      have h1 : cellIndex r c / 256 = r := by unfold cellIndex; omega
      have h2 : cellIndex r c % 256 = c := by unfold cellIndex; omega
      simp only [h1, h2]
      simp [h]
    · rintro p hp
      simp only [List.mem_map, Prod.exists, mem_coordinates] at hp
      obtain ⟨r', c', h', rfl⟩ := hp
      intro he
      rw [cellIndex_inj (by omega) hc] at he
      exact h (by omega)

/-! ### The canonical form -/

@[simp] theorem Memory.wf_nil : Memory.wf ([] : Memory α) := List.Pairwise.nil

theorem Memory.wf_cons (k : Nat) (v : α) (m : Memory α) :
    Memory.wf ((k, v) :: m) ↔ (∀ p ∈ m, k < p.1) ∧ Memory.wf m := by
  simp [Memory.wf]

theorem Memory.mem_set (m : Memory α) (i : Nat) (v : α) (p : Nat × α) (h : p ∈ Memory.set m i v) :
    p = (i, v) ∨ p ∈ m := by
  induction m with
  | nil => simpa [Memory.set] using h
  | cons q m ih =>
    obtain ⟨k, w⟩ := q
    simp only [Memory.set] at h
    split at h
    · simpa using h
    · split at h
      · rcases List.mem_cons.mp h with h | h
        · exact .inl h
        · exact .inr (by simp [h])
      · rcases List.mem_cons.mp h with h | h
        · exact .inr (by simp [h])
        · rcases ih h with h | h
          · exact .inl h
          · exact .inr (by simp [h])

/-- A write keeps the canonical form. -/
theorem Memory.set_wf (m : Memory α) (i : Nat) (v : α) (h : Memory.wf m) : Memory.wf (Memory.set m i v) := by
  induction m with
  | nil => simp [Memory.set, Memory.wf]
  | cons p m ih =>
    obtain ⟨k, w⟩ := p
    rw [Memory.wf_cons] at h
    simp only [Memory.set]
    split
    · rename_i hik
      rw [Memory.wf_cons]
      refine ⟨fun p hp => ?_, Memory.wf_cons _ _ _ |>.mpr h⟩
      rcases List.mem_cons.mp hp with rfl | hp
      · exact hik
      · exact hik.trans (h.1 p hp)
    · split
      · rename_i hik; subst hik
        exact (Memory.wf_cons _ _ _).mpr h
      · rename_i h1 h2
        rw [Memory.wf_cons]
        refine ⟨fun p hp => ?_, ih h.2⟩
        rcases Memory.mem_set _ _ _ _ hp with rfl | hp
        · simp only; omega
        · exact h.1 p hp

theorem Memory.setMany_wf (m : Memory α) (l : List (Nat × α)) (h : Memory.wf m) : Memory.wf (Memory.setMany m l) := by
  induction l with
  | nil => exact h
  | cons p l ih => exact Memory.set_wf _ _ _ ih

theorem Memory.filter_wf (m : Memory α) (f : Nat × α → Bool) (h : Memory.wf m) : Memory.wf (m.filter f) :=
  h.sublist (List.filter_sublist.map _)

theorem Memory.enumerate_keys (vs : List α) (b : Nat) :
    (Memory.enumerate b vs).map Prod.fst = List.range' b vs.length := by
  induction vs generalizing b with
  | nil => rfl
  | cons v vs ih => simp [Memory.enumerate, ih, List.range'_succ]

/-- Writing a whole list keeps the canonical form. -/
theorem Memory.writeList_wf (m : Memory α) (vs : List α) (h : Memory.wf m) : Memory.wf (Memory.writeList m vs) := by
  unfold Memory.writeList Memory.wf
  rw [List.map_append, Memory.enumerate_keys, List.pairwise_append]
  refine ⟨List.pairwise_lt_range', Memory.filter_wf _ _ h, fun a ha b hb => ?_⟩
  simp only [List.mem_range'_1] at ha
  simp only [List.mem_map, List.mem_filter, decide_eq_true_eq] at hb
  obtain ⟨p, ⟨-, hp⟩, rfl⟩ := hb
  omega

/-- `GP.INIT`'s clearing keeps the canonical form. -/
theorem clearGrid_wf (side : Nat) (grid : Memory Cell) (h : Memory.wf grid) : Memory.wf (clearGrid side grid) :=
  Memory.setMany_wf _ _ (Memory.filter_wf _ _ h)

end Sys2Proof.Machine
end

