-- ==== Sys2Proof/Laws/Bitmap.lean ====
section
/-! SUPPORT. The laws of the bitmap packing: one module is one bit, and writing it leaves every other module alone. -/

namespace Sys2Proof.Machine

/-- A bit of a byte with one bit set. -/
theorem getLsbD_withBit (b : Byte) (i j : Nat) (v : Bool) (hj : j < 8) :
    (withBit b i v).getLsbD j = if j = i then v else b.getLsbD j := by
  unfold withBit
  split <;> simp only [BitVec.getLsbD_or, BitVec.getLsbD_and, BitVec.getLsbD_not, BitVec.getLsbD_shiftLeft,
    BitVec.getLsbD_one, hj, decide_true, Bool.true_and]
  · by_cases h : j = i
    · subst h; simp_all
    · have : ¬ (¬ j < i ∧ j - i = 0) := by omega
      by_cases h' : j < i <;> simp_all
  · by_cases h : j = i
    · subst h; simp_all
    · have : ¬ (¬ j < i ∧ j - i = 0) := by omega
      by_cases h' : j < i <;> simp_all

theorem byteAt_set (m : Memory Byte) (free : Nat → Byte) (i j : Nat) (v : Byte) :
    byteAt (Memory.set m i v) free j = if i = j then v else byteAt m free j := by
  unfold byteAt; rw [Memory.get?_set]; split <;> rfl

/-- A byte after a whole list was written: the list's byte, then what stood there before. -/
theorem byteAt_writeList (m : Memory Byte) (free : Nat → Byte) (vs : List Byte) (j : Nat) :
    byteAt (Memory.writeList m vs) free j = if h : j < vs.length then vs[j] else byteAt m free j := by
  unfold byteAt; rw [Memory.get?_writeList]; split <;> simp_all

theorem pixelBit_lt (c : Nat) : pixelBit c < 8 := by unfold pixelBit; omega

/-- Two modules of a bitmap share a byte and a bit only when they are the same module. -/
theorem pixel_place_inj {stride r c r' c' : Nat} (hc : c < 8 * stride) (hc' : c' < 8 * stride)
    (hb : pixelByte stride r c = pixelByte stride r' c') (hi : pixelBit c = pixelBit c') : r = r' ∧ c = c' := by
  unfold pixelByte at hb
  unfold pixelBit at hi
  have h1 : c / 8 < stride := by omega
  have h2 : c' / 8 < stride := by omega
  have hr : r = r' := by
    have := congrArg (· / stride) hb
    simpa [Nat.mul_comm, Nat.mul_add_div (by omega : 0 < stride), Nat.div_eq_of_lt h1, Nat.div_eq_of_lt h2] using this
  subst hr
  omega

/-- A module after one module was written. -/
theorem pixel_setPixel (m : Memory Byte) (free : Nat → Byte) {stride r c r' c' : Nat} (v : Bool) (hc : c < 8 * stride)
    (hc' : c' < 8 * stride) :
    pixel (byteAt (setPixel m free stride r' c' v) free) stride r c =
      if r = r' ∧ c = c' then v else pixel (byteAt m free) stride r c := by
  unfold pixel setPixel
  rw [byteAt_set]
  by_cases hb : pixelByte stride r' c' = pixelByte stride r c
  · rw [if_pos hb, getLsbD_withBit _ _ _ _ (pixelBit_lt c), hb]
    by_cases hi : pixelBit c = pixelBit c'
    · rw [if_pos hi, if_pos (pixel_place_inj hc hc' hb.symm hi)]
    · rw [if_neg hi, if_neg (by rintro ⟨rfl, rfl⟩; exact hi rfl)]
  · rw [if_neg hb, if_neg (by rintro ⟨rfl, rfl⟩; exact hb rfl)]

/-- A module after one module was flipped. -/
theorem pixel_xorPixel (m : Memory Byte) (free : Nat → Byte) {stride r c r' c' : Nat} (v : Bool) (hc : c < 8 * stride)
    (hc' : c' < 8 * stride) :
    pixel (byteAt (xorPixel m free stride r' c' v) free) stride r c =
      (pixel (byteAt m free) stride r c ^^ (decide (r = r' ∧ c = c') && v)) := by
  unfold xorPixel
  rw [pixel_setPixel m free _ hc hc']
  by_cases h : r = r' ∧ c = c'
  · obtain ⟨rfl, rfl⟩ := h; simp
  · simp [h]

theorem setPixel_wf (m : Memory Byte) (free : Nat → Byte) (stride r c : Nat) (v : Bool) (h : Memory.wf m) :
    Memory.wf (setPixel m free stride r c v) := Memory.set_wf _ _ _ h

theorem xorPixel_wf (m : Memory Byte) (free : Nat → Byte) (stride r c : Nat) (v : Bool) (h : Memory.wf m) :
    Memory.wf (xorPixel m free stride r c v) := setPixel_wf _ _ _ _ _ _ h

/-- Bitmaps whose bytes agree have the same modules. -/
theorem pixel_congr {f g : Nat → Byte} {stride r c : Nat} (h : f (pixelByte stride r c) = g (pixelByte stride r c)) :
    pixel f stride r c = pixel g stride r c := by unfold pixel; rw [h]

/-- XOR of bytes is XOR of modules. -/
theorem pixel_xor (f g : Nat → Byte) (stride r c : Nat) :
    pixel (fun j => f j ^^^ g j) stride r c = (pixel f stride r c ^^ pixel g stride r c) := by
  simp [pixel]

/-- The byte of a module inside a bitmap of `stride · side` bytes. -/
theorem pixelByte_lt {stride side r c : Nat} (hr : r < side) (hc : c < 8 * stride) :
    pixelByte stride r c < stride * side := by
  unfold pixelByte
  calc r * stride + c / 8 < r * stride + stride := by omega
    _ = (r + 1) * stride := by ring
    _ ≤ side * stride := Nat.mul_le_mul_right _ hr
    _ = stride * side := by ring

end Sys2Proof.Machine
end

