-- ==== Sys2Proof/Laws/State.lean ====
section
/-! SUPPORT. One lemma per field per named update of State and of Status, true by rfl, so that no later proof unfolds a
record update. -/

namespace Sys2Proof.Machine

/-! ### Status -/

section

variable (st : Status)

@[simp] theorem Status.ended_busy (code : ErrCode) : (st.ended code).busy = false := rfl
@[simp] theorem Status.ended_fatal (code : ErrCode) : (st.ended code).fatal = st.fatal := rfl
@[simp] theorem Status.ended_err (code : ErrCode) : (st.ended code).err = code := rfl
@[simp] theorem Status.ended_gridInit (code : ErrCode) : (st.ended code).gridInit = st.gridInit := rfl
@[simp] theorem Status.ended_gpstep (code : ErrCode) : (st.ended code).gpstep = st.gpstep := rfl
@[simp] theorem Status.ended_paramOk (code : ErrCode) : (st.ended code).paramOk = st.paramOk := rfl
@[simp] theorem Status.ended_seqOk (code : ErrCode) : (st.ended code).seqOk = st.seqOk := rfl
@[simp] theorem Status.ended_layoutOk (code : ErrCode) : (st.ended code).layoutOk = st.layoutOk := rfl
@[simp] theorem Status.ended_fmtOk (code : ErrCode) : (st.ended code).fmtOk = st.fmtOk := rfl
@[simp] theorem Status.ended_planOk (code : ErrCode) : (st.ended code).planOk = st.planOk := rfl
@[simp] theorem Status.ended_workOk (code : ErrCode) : (st.ended code).workOk = st.workOk := rfl
@[simp] theorem Status.ended_candOk (code : ErrCode) : (st.ended code).candOk = st.candOk := rfl
@[simp] theorem Status.ended_penOk (code : ErrCode) : (st.ended code).penOk = st.penOk := rfl
@[simp] theorem Status.ended_codeOk (code : ErrCode) : (st.ended code).codeOk = st.codeOk := rfl

@[simp] theorem Status.planStarted_busy : (st.planStarted).busy = st.busy := rfl
@[simp] theorem Status.planStarted_fatal : (st.planStarted).fatal = st.fatal := rfl
@[simp] theorem Status.planStarted_err : (st.planStarted).err = st.err := rfl
@[simp] theorem Status.planStarted_gridInit : (st.planStarted).gridInit = true := rfl
@[simp] theorem Status.planStarted_gpstep : (st.planStarted).gpstep = 0 := rfl
@[simp] theorem Status.planStarted_paramOk : (st.planStarted).paramOk = false := rfl
@[simp] theorem Status.planStarted_seqOk : (st.planStarted).seqOk = false := rfl
@[simp] theorem Status.planStarted_layoutOk : (st.planStarted).layoutOk = false := rfl
@[simp] theorem Status.planStarted_fmtOk : (st.planStarted).fmtOk = false := rfl
@[simp] theorem Status.planStarted_planOk : (st.planStarted).planOk = false := rfl
@[simp] theorem Status.planStarted_workOk : (st.planStarted).workOk = false := rfl
@[simp] theorem Status.planStarted_candOk : (st.planStarted).candOk = false := rfl
@[simp] theorem Status.planStarted_penOk : (st.planStarted).penOk = false := rfl
@[simp] theorem Status.planStarted_codeOk : (st.planStarted).codeOk = st.codeOk := rfl

@[simp] theorem Status.fatalLatched_busy : (st.fatalLatched).busy = st.busy := rfl
@[simp] theorem Status.fatalLatched_fatal : (st.fatalLatched).fatal = true := rfl
@[simp] theorem Status.fatalLatched_err : (st.fatalLatched).err = st.err := rfl
@[simp] theorem Status.fatalLatched_gridInit : (st.fatalLatched).gridInit = false := rfl
@[simp] theorem Status.fatalLatched_gpstep : (st.fatalLatched).gpstep = 0 := rfl
@[simp] theorem Status.fatalLatched_paramOk : (st.fatalLatched).paramOk = false := rfl
@[simp] theorem Status.fatalLatched_seqOk : (st.fatalLatched).seqOk = false := rfl
@[simp] theorem Status.fatalLatched_layoutOk : (st.fatalLatched).layoutOk = false := rfl
@[simp] theorem Status.fatalLatched_fmtOk : (st.fatalLatched).fmtOk = false := rfl
@[simp] theorem Status.fatalLatched_planOk : (st.fatalLatched).planOk = false := rfl
@[simp] theorem Status.fatalLatched_workOk : (st.fatalLatched).workOk = false := rfl
@[simp] theorem Status.fatalLatched_candOk : (st.fatalLatched).candOk = false := rfl
@[simp] theorem Status.fatalLatched_penOk : (st.fatalLatched).penOk = false := rfl
@[simp] theorem Status.fatalLatched_codeOk : (st.fatalLatched).codeOk = false := rfl

@[simp] theorem Status.paramsComputed_busy : (st.paramsComputed).busy = st.busy := rfl
@[simp] theorem Status.paramsComputed_fatal : (st.paramsComputed).fatal = st.fatal := rfl
@[simp] theorem Status.paramsComputed_err : (st.paramsComputed).err = st.err := rfl
@[simp] theorem Status.paramsComputed_gridInit : (st.paramsComputed).gridInit = st.gridInit := rfl
@[simp] theorem Status.paramsComputed_gpstep : (st.paramsComputed).gpstep = st.gpstep := rfl
@[simp] theorem Status.paramsComputed_paramOk : (st.paramsComputed).paramOk = true := rfl
@[simp] theorem Status.paramsComputed_seqOk : (st.paramsComputed).seqOk = false := rfl
@[simp] theorem Status.paramsComputed_layoutOk : (st.paramsComputed).layoutOk = st.layoutOk := rfl
@[simp] theorem Status.paramsComputed_fmtOk : (st.paramsComputed).fmtOk = false := rfl
@[simp] theorem Status.paramsComputed_planOk : (st.paramsComputed).planOk = st.planOk := rfl
@[simp] theorem Status.paramsComputed_workOk : (st.paramsComputed).workOk = st.workOk := rfl
@[simp] theorem Status.paramsComputed_candOk : (st.paramsComputed).candOk = st.candOk := rfl
@[simp] theorem Status.paramsComputed_penOk : (st.paramsComputed).penOk = st.penOk := rfl
@[simp] theorem Status.paramsComputed_codeOk : (st.paramsComputed).codeOk = st.codeOk := rfl

@[simp] theorem Status.placed_busy : (st.placed).busy = st.busy := rfl
@[simp] theorem Status.placed_fatal : (st.placed).fatal = st.fatal := rfl
@[simp] theorem Status.placed_err : (st.placed).err = st.err := rfl
@[simp] theorem Status.placed_gridInit : (st.placed).gridInit = st.gridInit := rfl
@[simp] theorem Status.placed_gpstep : (st.placed).gpstep = st.gpstep := rfl
@[simp] theorem Status.placed_paramOk : (st.placed).paramOk = st.paramOk := rfl
@[simp] theorem Status.placed_seqOk : (st.placed).seqOk = st.seqOk := rfl
@[simp] theorem Status.placed_layoutOk : (st.placed).layoutOk = st.layoutOk := rfl
@[simp] theorem Status.placed_fmtOk : (st.placed).fmtOk = st.fmtOk := rfl
@[simp] theorem Status.placed_planOk : (st.placed).planOk = st.planOk := rfl
@[simp] theorem Status.placed_workOk : (st.placed).workOk = true := rfl
@[simp] theorem Status.placed_candOk : (st.placed).candOk = false := rfl
@[simp] theorem Status.placed_penOk : (st.placed).penOk = false := rfl
@[simp] theorem Status.placed_codeOk : (st.placed).codeOk = st.codeOk := rfl

@[simp] theorem Status.candidateMade_busy : (st.candidateMade).busy = st.busy := rfl
@[simp] theorem Status.candidateMade_fatal : (st.candidateMade).fatal = st.fatal := rfl
@[simp] theorem Status.candidateMade_err : (st.candidateMade).err = st.err := rfl
@[simp] theorem Status.candidateMade_gridInit : (st.candidateMade).gridInit = st.gridInit := rfl
@[simp] theorem Status.candidateMade_gpstep : (st.candidateMade).gpstep = st.gpstep := rfl
@[simp] theorem Status.candidateMade_paramOk : (st.candidateMade).paramOk = st.paramOk := rfl
@[simp] theorem Status.candidateMade_seqOk : (st.candidateMade).seqOk = st.seqOk := rfl
@[simp] theorem Status.candidateMade_layoutOk : (st.candidateMade).layoutOk = st.layoutOk := rfl
@[simp] theorem Status.candidateMade_fmtOk : (st.candidateMade).fmtOk = st.fmtOk := rfl
@[simp] theorem Status.candidateMade_planOk : (st.candidateMade).planOk = st.planOk := rfl
@[simp] theorem Status.candidateMade_workOk : (st.candidateMade).workOk = st.workOk := rfl
@[simp] theorem Status.candidateMade_candOk : (st.candidateMade).candOk = true := rfl
@[simp] theorem Status.candidateMade_penOk : (st.candidateMade).penOk = false := rfl
@[simp] theorem Status.candidateMade_codeOk : (st.candidateMade).codeOk = st.codeOk := rfl

end

/-! ### State -/

section

variable (s : State)

@[simp] theorem State.finish_status : (s.finish).status = s.status.ended .ok := rfl
@[simp] theorem State.finish_cfg : (s.finish).cfg = s.cfg := rfl
@[simp] theorem State.finish_cwlen : (s.finish).cwlen = s.cwlen := rfl
@[simp] theorem State.finish_errcmd : (s.finish).errcmd = s.errcmd := rfl
@[simp] theorem State.finish_fatalcode : (s.finish).fatalcode = s.fatalcode := rfl
@[simp] theorem State.finish_pending : (s.finish).pending = s.pending := rfl
@[simp] theorem State.finish_plan : (s.finish).plan = s.plan := rfl
@[simp] theorem State.finish_pen : (s.finish).pen = s.pen := rfl
@[simp] theorem State.finish_code : (s.finish).code = s.code := rfl
@[simp] theorem State.finish_grid : (s.finish).grid = s.grid := rfl
@[simp] theorem State.finish_seq : (s.finish).seq = s.seq := rfl
@[simp] theorem State.finish_tpl : (s.finish).tpl = s.tpl := rfl
@[simp] theorem State.finish_work : (s.finish).work = s.work := rfl
@[simp] theorem State.finish_cand : (s.finish).cand = s.cand := rfl
@[simp] theorem State.finish_out : (s.finish).out = s.out := rfl
@[simp] theorem State.finish_cw : (s.finish).cw = s.cw := rfl
@[simp] theorem State.finish_config : (s.finish).config = s.config := rfl
@[simp] theorem State.finish_cwStamp : (s.finish).cwStamp = s.cwStamp := rfl
@[simp] theorem State.finish_engineStamp : (s.finish).engineStamp = s.engineStamp := rfl
@[simp] theorem State.finish_port : (s.finish).port = s.port := rfl

@[simp] theorem State.reject_status (code : ErrCode) : (s.reject code).status = s.status.ended code := rfl
@[simp] theorem State.reject_cfg (code : ErrCode) : (s.reject code).cfg = s.cfg := rfl
@[simp] theorem State.reject_cwlen (code : ErrCode) : (s.reject code).cwlen = s.cwlen := rfl
@[simp] theorem State.reject_errcmd (code : ErrCode) : (s.reject code).errcmd = s.pending := rfl
@[simp] theorem State.reject_fatalcode (code : ErrCode) : (s.reject code).fatalcode = s.fatalcode := rfl
@[simp] theorem State.reject_pending (code : ErrCode) : (s.reject code).pending = s.pending := rfl
@[simp] theorem State.reject_plan (code : ErrCode) : (s.reject code).plan = s.plan := rfl
@[simp] theorem State.reject_pen (code : ErrCode) : (s.reject code).pen = s.pen := rfl
@[simp] theorem State.reject_code (code : ErrCode) : (s.reject code).code = s.code := rfl
@[simp] theorem State.reject_grid (code : ErrCode) : (s.reject code).grid = s.grid := rfl
@[simp] theorem State.reject_seq (code : ErrCode) : (s.reject code).seq = s.seq := rfl
@[simp] theorem State.reject_tpl (code : ErrCode) : (s.reject code).tpl = s.tpl := rfl
@[simp] theorem State.reject_work (code : ErrCode) : (s.reject code).work = s.work := rfl
@[simp] theorem State.reject_cand (code : ErrCode) : (s.reject code).cand = s.cand := rfl
@[simp] theorem State.reject_out (code : ErrCode) : (s.reject code).out = s.out := rfl
@[simp] theorem State.reject_cw (code : ErrCode) : (s.reject code).cw = s.cw := rfl
@[simp] theorem State.reject_config (code : ErrCode) : (s.reject code).config = s.config := rfl
@[simp] theorem State.reject_cwStamp (code : ErrCode) : (s.reject code).cwStamp = s.cwStamp := rfl
@[simp] theorem State.reject_engineStamp (code : ErrCode) : (s.reject code).engineStamp = s.engineStamp := rfl
@[simp] theorem State.reject_port (code : ErrCode) : (s.reject code).port = s.port := rfl

@[simp] theorem State.raiseFatal_status (code : FatalCode) : (s.raiseFatal code).status = s.status.fatalLatched.ended .fatalRaised := rfl
@[simp] theorem State.raiseFatal_cfg (code : FatalCode) : (s.raiseFatal code).cfg = s.cfg := rfl
@[simp] theorem State.raiseFatal_cwlen (code : FatalCode) : (s.raiseFatal code).cwlen = s.cwlen := rfl
@[simp] theorem State.raiseFatal_errcmd (code : FatalCode) : (s.raiseFatal code).errcmd = s.pending := rfl
@[simp] theorem State.raiseFatal_fatalcode (code : FatalCode) : (s.raiseFatal code).fatalcode = code := rfl
@[simp] theorem State.raiseFatal_pending (code : FatalCode) : (s.raiseFatal code).pending = s.pending := rfl
@[simp] theorem State.raiseFatal_plan (code : FatalCode) : (s.raiseFatal code).plan = freePlanRegs (s.engineStamp + 1) := rfl
@[simp] theorem State.raiseFatal_pen (code : FatalCode) : (s.raiseFatal code).pen = freePenRegs (s.engineStamp + 1) := rfl
@[simp] theorem State.raiseFatal_code (code : FatalCode) : (s.raiseFatal code).code = freeCodeRegs (s.engineStamp + 1) := rfl
@[simp] theorem State.raiseFatal_grid (code : FatalCode) : (s.raiseFatal code).grid = [] := rfl
@[simp] theorem State.raiseFatal_seq (code : FatalCode) : (s.raiseFatal code).seq = [] := rfl
@[simp] theorem State.raiseFatal_tpl (code : FatalCode) : (s.raiseFatal code).tpl = Templates.empty := rfl
@[simp] theorem State.raiseFatal_work (code : FatalCode) : (s.raiseFatal code).work = [] := rfl
@[simp] theorem State.raiseFatal_cand (code : FatalCode) : (s.raiseFatal code).cand = [] := rfl
@[simp] theorem State.raiseFatal_out (code : FatalCode) : (s.raiseFatal code).out = [] := rfl
@[simp] theorem State.raiseFatal_cw (code : FatalCode) : (s.raiseFatal code).cw = s.cw := rfl
@[simp] theorem State.raiseFatal_config (code : FatalCode) : (s.raiseFatal code).config = s.config := rfl
@[simp] theorem State.raiseFatal_cwStamp (code : FatalCode) : (s.raiseFatal code).cwStamp = s.cwStamp := rfl
@[simp] theorem State.raiseFatal_engineStamp (code : FatalCode) : (s.raiseFatal code).engineStamp = s.engineStamp + 1 := rfl
@[simp] theorem State.raiseFatal_port (code : FatalCode) : (s.raiseFatal code).port = s.port := rfl

@[simp] theorem State.resetEvent_status : (s.resetEvent).status = Status.zero := rfl
@[simp] theorem State.resetEvent_cfg : (s.resetEvent).cfg = ⟨0, 0, 0⟩ := rfl
@[simp] theorem State.resetEvent_cwlen : (s.resetEvent).cwlen = 0 := rfl
@[simp] theorem State.resetEvent_errcmd : (s.resetEvent).errcmd = 0 := rfl
@[simp] theorem State.resetEvent_fatalcode : (s.resetEvent).fatalcode = .none := rfl
@[simp] theorem State.resetEvent_pending : (s.resetEvent).pending = 0 := rfl
@[simp] theorem State.resetEvent_plan : (s.resetEvent).plan = PlanRegs.zero := rfl
@[simp] theorem State.resetEvent_pen : (s.resetEvent).pen = PenRegs.zero := rfl
@[simp] theorem State.resetEvent_code : (s.resetEvent).code = ⟨0, 0⟩ := rfl
@[simp] theorem State.resetEvent_grid : (s.resetEvent).grid = [] := rfl
@[simp] theorem State.resetEvent_seq : (s.resetEvent).seq = [] := rfl
@[simp] theorem State.resetEvent_tpl : (s.resetEvent).tpl = Templates.empty := rfl
@[simp] theorem State.resetEvent_work : (s.resetEvent).work = [] := rfl
@[simp] theorem State.resetEvent_cand : (s.resetEvent).cand = [] := rfl
@[simp] theorem State.resetEvent_out : (s.resetEvent).out = [] := rfl
@[simp] theorem State.resetEvent_cw : (s.resetEvent).cw = [] := rfl
@[simp] theorem State.resetEvent_config : (s.resetEvent).config = s.config := rfl
@[simp] theorem State.resetEvent_cwStamp : (s.resetEvent).cwStamp = s.cwStamp + 1 := rfl
@[simp] theorem State.resetEvent_engineStamp : (s.resetEvent).engineStamp = s.engineStamp + 1 := rfl
@[simp] theorem State.resetEvent_port : (s.resetEvent).port = s.port := rfl

@[simp] theorem State.writeCmd_cfg (w : Word) : (s.writeCmd w).cfg = s.cfg := rfl
@[simp] theorem State.writeCmd_cwlen (w : Word) : (s.writeCmd w).cwlen = s.cwlen := rfl
@[simp] theorem State.writeCmd_errcmd (w : Word) : (s.writeCmd w).errcmd = s.errcmd := rfl
@[simp] theorem State.writeCmd_fatalcode (w : Word) : (s.writeCmd w).fatalcode = s.fatalcode := rfl
@[simp] theorem State.writeCmd_pending (w : Word) : (s.writeCmd w).pending = w := rfl
@[simp] theorem State.writeCmd_plan (w : Word) : (s.writeCmd w).plan = s.plan := rfl
@[simp] theorem State.writeCmd_pen (w : Word) : (s.writeCmd w).pen = s.pen := rfl
@[simp] theorem State.writeCmd_code (w : Word) : (s.writeCmd w).code = s.code := rfl
@[simp] theorem State.writeCmd_grid (w : Word) : (s.writeCmd w).grid = s.grid := rfl
@[simp] theorem State.writeCmd_seq (w : Word) : (s.writeCmd w).seq = s.seq := rfl
@[simp] theorem State.writeCmd_tpl (w : Word) : (s.writeCmd w).tpl = s.tpl := rfl
@[simp] theorem State.writeCmd_work (w : Word) : (s.writeCmd w).work = s.work := rfl
@[simp] theorem State.writeCmd_cand (w : Word) : (s.writeCmd w).cand = s.cand := rfl
@[simp] theorem State.writeCmd_out (w : Word) : (s.writeCmd w).out = s.out := rfl
@[simp] theorem State.writeCmd_cw (w : Word) : (s.writeCmd w).cw = s.cw := rfl
@[simp] theorem State.writeCmd_config (w : Word) : (s.writeCmd w).config = s.config := rfl
@[simp] theorem State.writeCmd_cwStamp (w : Word) : (s.writeCmd w).cwStamp = s.cwStamp := rfl
@[simp] theorem State.writeCmd_engineStamp (w : Word) : (s.writeCmd w).engineStamp = s.engineStamp := rfl
@[simp] theorem State.writeCmd_port (w : Word) : (s.writeCmd w).port = s.port := rfl

@[simp] theorem State.answered_status (a : BusAnswer) : (s.answered a).status = s.status := rfl
@[simp] theorem State.answered_cfg (a : BusAnswer) : (s.answered a).cfg = s.cfg := rfl
@[simp] theorem State.answered_cwlen (a : BusAnswer) : (s.answered a).cwlen = s.cwlen := rfl
@[simp] theorem State.answered_errcmd (a : BusAnswer) : (s.answered a).errcmd = s.errcmd := rfl
@[simp] theorem State.answered_fatalcode (a : BusAnswer) : (s.answered a).fatalcode = s.fatalcode := rfl
@[simp] theorem State.answered_pending (a : BusAnswer) : (s.answered a).pending = s.pending := rfl
@[simp] theorem State.answered_plan (a : BusAnswer) : (s.answered a).plan = s.plan := rfl
@[simp] theorem State.answered_pen (a : BusAnswer) : (s.answered a).pen = s.pen := rfl
@[simp] theorem State.answered_code (a : BusAnswer) : (s.answered a).code = s.code := rfl
@[simp] theorem State.answered_grid (a : BusAnswer) : (s.answered a).grid = s.grid := rfl
@[simp] theorem State.answered_seq (a : BusAnswer) : (s.answered a).seq = s.seq := rfl
@[simp] theorem State.answered_tpl (a : BusAnswer) : (s.answered a).tpl = s.tpl := rfl
@[simp] theorem State.answered_work (a : BusAnswer) : (s.answered a).work = s.work := rfl
@[simp] theorem State.answered_cand (a : BusAnswer) : (s.answered a).cand = s.cand := rfl
@[simp] theorem State.answered_out (a : BusAnswer) : (s.answered a).out = s.out := rfl
@[simp] theorem State.answered_cw (a : BusAnswer) : (s.answered a).cw = s.cw := rfl
@[simp] theorem State.answered_config (a : BusAnswer) : (s.answered a).config = s.config := rfl
@[simp] theorem State.answered_cwStamp (a : BusAnswer) : (s.answered a).cwStamp = s.cwStamp := rfl
@[simp] theorem State.answered_engineStamp (a : BusAnswer) : (s.answered a).engineStamp = s.engineStamp := rfl

@[simp] theorem State.withEvents_status (es : List Event) : (s.withEvents es).status = s.status := rfl
@[simp] theorem State.withEvents_cfg (es : List Event) : (s.withEvents es).cfg = s.cfg := rfl
@[simp] theorem State.withEvents_cwlen (es : List Event) : (s.withEvents es).cwlen = s.cwlen := rfl
@[simp] theorem State.withEvents_errcmd (es : List Event) : (s.withEvents es).errcmd = s.errcmd := rfl
@[simp] theorem State.withEvents_fatalcode (es : List Event) : (s.withEvents es).fatalcode = s.fatalcode := rfl
@[simp] theorem State.withEvents_pending (es : List Event) : (s.withEvents es).pending = s.pending := rfl
@[simp] theorem State.withEvents_plan (es : List Event) : (s.withEvents es).plan = s.plan := rfl
@[simp] theorem State.withEvents_pen (es : List Event) : (s.withEvents es).pen = s.pen := rfl
@[simp] theorem State.withEvents_code (es : List Event) : (s.withEvents es).code = s.code := rfl
@[simp] theorem State.withEvents_grid (es : List Event) : (s.withEvents es).grid = s.grid := rfl
@[simp] theorem State.withEvents_seq (es : List Event) : (s.withEvents es).seq = s.seq := rfl
@[simp] theorem State.withEvents_tpl (es : List Event) : (s.withEvents es).tpl = s.tpl := rfl
@[simp] theorem State.withEvents_work (es : List Event) : (s.withEvents es).work = s.work := rfl
@[simp] theorem State.withEvents_cand (es : List Event) : (s.withEvents es).cand = s.cand := rfl
@[simp] theorem State.withEvents_out (es : List Event) : (s.withEvents es).out = s.out := rfl
@[simp] theorem State.withEvents_cw (es : List Event) : (s.withEvents es).cw = s.cw := rfl
@[simp] theorem State.withEvents_config (es : List Event) : (s.withEvents es).config = s.config := rfl
@[simp] theorem State.withEvents_cwStamp (es : List Event) : (s.withEvents es).cwStamp = s.cwStamp := rfl
@[simp] theorem State.withEvents_engineStamp (es : List Event) : (s.withEvents es).engineStamp = s.engineStamp := rfl

@[simp] theorem State.setTplPixel_status (k r c : Nat) (v : Bool) : (s.setTplPixel k r c v).status = s.status := rfl
@[simp] theorem State.setTplPixel_cfg (k r c : Nat) (v : Bool) : (s.setTplPixel k r c v).cfg = s.cfg := rfl
@[simp] theorem State.setTplPixel_cwlen (k r c : Nat) (v : Bool) : (s.setTplPixel k r c v).cwlen = s.cwlen := rfl
@[simp] theorem State.setTplPixel_errcmd (k r c : Nat) (v : Bool) : (s.setTplPixel k r c v).errcmd = s.errcmd := rfl
@[simp] theorem State.setTplPixel_fatalcode (k r c : Nat) (v : Bool) : (s.setTplPixel k r c v).fatalcode = s.fatalcode := rfl
@[simp] theorem State.setTplPixel_pending (k r c : Nat) (v : Bool) : (s.setTplPixel k r c v).pending = s.pending := rfl
@[simp] theorem State.setTplPixel_plan (k r c : Nat) (v : Bool) : (s.setTplPixel k r c v).plan = s.plan := rfl
@[simp] theorem State.setTplPixel_pen (k r c : Nat) (v : Bool) : (s.setTplPixel k r c v).pen = s.pen := rfl
@[simp] theorem State.setTplPixel_code (k r c : Nat) (v : Bool) : (s.setTplPixel k r c v).code = s.code := rfl
@[simp] theorem State.setTplPixel_grid (k r c : Nat) (v : Bool) : (s.setTplPixel k r c v).grid = s.grid := rfl
@[simp] theorem State.setTplPixel_seq (k r c : Nat) (v : Bool) : (s.setTplPixel k r c v).seq = s.seq := rfl
@[simp] theorem State.setTplPixel_work (k r c : Nat) (v : Bool) : (s.setTplPixel k r c v).work = s.work := rfl
@[simp] theorem State.setTplPixel_cand (k r c : Nat) (v : Bool) : (s.setTplPixel k r c v).cand = s.cand := rfl
@[simp] theorem State.setTplPixel_out (k r c : Nat) (v : Bool) : (s.setTplPixel k r c v).out = s.out := rfl
@[simp] theorem State.setTplPixel_cw (k r c : Nat) (v : Bool) : (s.setTplPixel k r c v).cw = s.cw := rfl
@[simp] theorem State.setTplPixel_config (k r c : Nat) (v : Bool) : (s.setTplPixel k r c v).config = s.config := rfl
@[simp] theorem State.setTplPixel_cwStamp (k r c : Nat) (v : Bool) : (s.setTplPixel k r c v).cwStamp = s.cwStamp := rfl
@[simp] theorem State.setTplPixel_engineStamp (k r c : Nat) (v : Bool) : (s.setTplPixel k r c v).engineStamp = s.engineStamp := rfl
@[simp] theorem State.setTplPixel_port (k r c : Nat) (v : Bool) : (s.setTplPixel k r c v).port = s.port := rfl

@[simp] theorem State.xorWorkPixel_status (r c : Nat) (v : Bool) : (s.xorWorkPixel r c v).status = s.status := rfl
@[simp] theorem State.xorWorkPixel_cfg (r c : Nat) (v : Bool) : (s.xorWorkPixel r c v).cfg = s.cfg := rfl
@[simp] theorem State.xorWorkPixel_cwlen (r c : Nat) (v : Bool) : (s.xorWorkPixel r c v).cwlen = s.cwlen := rfl
@[simp] theorem State.xorWorkPixel_errcmd (r c : Nat) (v : Bool) : (s.xorWorkPixel r c v).errcmd = s.errcmd := rfl
@[simp] theorem State.xorWorkPixel_fatalcode (r c : Nat) (v : Bool) : (s.xorWorkPixel r c v).fatalcode = s.fatalcode := rfl
@[simp] theorem State.xorWorkPixel_pending (r c : Nat) (v : Bool) : (s.xorWorkPixel r c v).pending = s.pending := rfl
@[simp] theorem State.xorWorkPixel_plan (r c : Nat) (v : Bool) : (s.xorWorkPixel r c v).plan = s.plan := rfl
@[simp] theorem State.xorWorkPixel_pen (r c : Nat) (v : Bool) : (s.xorWorkPixel r c v).pen = s.pen := rfl
@[simp] theorem State.xorWorkPixel_code (r c : Nat) (v : Bool) : (s.xorWorkPixel r c v).code = s.code := rfl
@[simp] theorem State.xorWorkPixel_grid (r c : Nat) (v : Bool) : (s.xorWorkPixel r c v).grid = s.grid := rfl
@[simp] theorem State.xorWorkPixel_seq (r c : Nat) (v : Bool) : (s.xorWorkPixel r c v).seq = s.seq := rfl
@[simp] theorem State.xorWorkPixel_tpl (r c : Nat) (v : Bool) : (s.xorWorkPixel r c v).tpl = s.tpl := rfl
@[simp] theorem State.xorWorkPixel_cand (r c : Nat) (v : Bool) : (s.xorWorkPixel r c v).cand = s.cand := rfl
@[simp] theorem State.xorWorkPixel_out (r c : Nat) (v : Bool) : (s.xorWorkPixel r c v).out = s.out := rfl
@[simp] theorem State.xorWorkPixel_cw (r c : Nat) (v : Bool) : (s.xorWorkPixel r c v).cw = s.cw := rfl
@[simp] theorem State.xorWorkPixel_config (r c : Nat) (v : Bool) : (s.xorWorkPixel r c v).config = s.config := rfl
@[simp] theorem State.xorWorkPixel_cwStamp (r c : Nat) (v : Bool) : (s.xorWorkPixel r c v).cwStamp = s.cwStamp := rfl
@[simp] theorem State.xorWorkPixel_engineStamp (r c : Nat) (v : Bool) : (s.xorWorkPixel r c v).engineStamp = s.engineStamp := rfl
@[simp] theorem State.xorWorkPixel_port (r c : Nat) (v : Bool) : (s.xorWorkPixel r c v).port = s.port := rfl

@[simp] theorem State.copyCand_status : (s.copyCand).status = s.status := rfl
@[simp] theorem State.copyCand_cfg : (s.copyCand).cfg = s.cfg := rfl
@[simp] theorem State.copyCand_cwlen : (s.copyCand).cwlen = s.cwlen := rfl
@[simp] theorem State.copyCand_errcmd : (s.copyCand).errcmd = s.errcmd := rfl
@[simp] theorem State.copyCand_fatalcode : (s.copyCand).fatalcode = s.fatalcode := rfl
@[simp] theorem State.copyCand_pending : (s.copyCand).pending = s.pending := rfl
@[simp] theorem State.copyCand_plan : (s.copyCand).plan = s.plan := rfl
@[simp] theorem State.copyCand_pen : (s.copyCand).pen = s.pen := rfl
@[simp] theorem State.copyCand_code : (s.copyCand).code = s.code := rfl
@[simp] theorem State.copyCand_grid : (s.copyCand).grid = s.grid := rfl
@[simp] theorem State.copyCand_seq : (s.copyCand).seq = s.seq := rfl
@[simp] theorem State.copyCand_tpl : (s.copyCand).tpl = s.tpl := rfl
@[simp] theorem State.copyCand_work : (s.copyCand).work = s.work := rfl
@[simp] theorem State.copyCand_cand : (s.copyCand).cand = s.cand := rfl
@[simp] theorem State.copyCand_cw : (s.copyCand).cw = s.cw := rfl
@[simp] theorem State.copyCand_config : (s.copyCand).config = s.config := rfl
@[simp] theorem State.copyCand_cwStamp : (s.copyCand).cwStamp = s.cwStamp := rfl
@[simp] theorem State.copyCand_engineStamp : (s.copyCand).engineStamp = s.engineStamp := rfl
@[simp] theorem State.copyCand_port : (s.copyCand).port = s.port := rfl

@[simp] theorem State.copyWork_status : (s.copyWork).status = s.status := rfl
@[simp] theorem State.copyWork_cfg : (s.copyWork).cfg = s.cfg := rfl
@[simp] theorem State.copyWork_cwlen : (s.copyWork).cwlen = s.cwlen := rfl
@[simp] theorem State.copyWork_errcmd : (s.copyWork).errcmd = s.errcmd := rfl
@[simp] theorem State.copyWork_fatalcode : (s.copyWork).fatalcode = s.fatalcode := rfl
@[simp] theorem State.copyWork_pending : (s.copyWork).pending = s.pending := rfl
@[simp] theorem State.copyWork_plan : (s.copyWork).plan = s.plan := rfl
@[simp] theorem State.copyWork_pen : (s.copyWork).pen = s.pen := rfl
@[simp] theorem State.copyWork_code : (s.copyWork).code = s.code := rfl
@[simp] theorem State.copyWork_grid : (s.copyWork).grid = s.grid := rfl
@[simp] theorem State.copyWork_seq : (s.copyWork).seq = s.seq := rfl
@[simp] theorem State.copyWork_tpl : (s.copyWork).tpl = s.tpl := rfl
@[simp] theorem State.copyWork_work : (s.copyWork).work = s.work := rfl
@[simp] theorem State.copyWork_cand : (s.copyWork).cand = s.cand := rfl
@[simp] theorem State.copyWork_cw : (s.copyWork).cw = s.cw := rfl
@[simp] theorem State.copyWork_config : (s.copyWork).config = s.config := rfl
@[simp] theorem State.copyWork_cwStamp : (s.copyWork).cwStamp = s.cwStamp := rfl
@[simp] theorem State.copyWork_engineStamp : (s.copyWork).engineStamp = s.engineStamp := rfl
@[simp] theorem State.copyWork_port : (s.copyWork).port = s.port := rfl

@[simp] theorem State.latchCode_cfg : (s.latchCode).cfg = s.cfg := rfl
@[simp] theorem State.latchCode_cwlen : (s.latchCode).cwlen = s.cwlen := rfl
@[simp] theorem State.latchCode_errcmd : (s.latchCode).errcmd = s.errcmd := rfl
@[simp] theorem State.latchCode_fatalcode : (s.latchCode).fatalcode = s.fatalcode := rfl
@[simp] theorem State.latchCode_pending : (s.latchCode).pending = s.pending := rfl
@[simp] theorem State.latchCode_plan : (s.latchCode).plan = s.plan := rfl
@[simp] theorem State.latchCode_pen : (s.latchCode).pen = s.pen := rfl
@[simp] theorem State.latchCode_code : (s.latchCode).code = ⟨s.plan.side, s.plan.stride⟩ := rfl
@[simp] theorem State.latchCode_grid : (s.latchCode).grid = s.grid := rfl
@[simp] theorem State.latchCode_seq : (s.latchCode).seq = s.seq := rfl
@[simp] theorem State.latchCode_tpl : (s.latchCode).tpl = s.tpl := rfl
@[simp] theorem State.latchCode_work : (s.latchCode).work = s.work := rfl
@[simp] theorem State.latchCode_cand : (s.latchCode).cand = s.cand := rfl
@[simp] theorem State.latchCode_out : (s.latchCode).out = s.out := rfl
@[simp] theorem State.latchCode_cw : (s.latchCode).cw = s.cw := rfl
@[simp] theorem State.latchCode_config : (s.latchCode).config = s.config := rfl
@[simp] theorem State.latchCode_cwStamp : (s.latchCode).cwStamp = s.cwStamp := rfl
@[simp] theorem State.latchCode_engineStamp : (s.latchCode).engineStamp = s.engineStamp := rfl
@[simp] theorem State.latchCode_port : (s.latchCode).port = s.port := rfl

@[simp] theorem State.staleTotal_cfg : (s.staleTotal).cfg = s.cfg := rfl
@[simp] theorem State.staleTotal_cwlen : (s.staleTotal).cwlen = s.cwlen := rfl
@[simp] theorem State.staleTotal_errcmd : (s.staleTotal).errcmd = s.errcmd := rfl
@[simp] theorem State.staleTotal_fatalcode : (s.staleTotal).fatalcode = s.fatalcode := rfl
@[simp] theorem State.staleTotal_pending : (s.staleTotal).pending = s.pending := rfl
@[simp] theorem State.staleTotal_plan : (s.staleTotal).plan = s.plan := rfl
@[simp] theorem State.staleTotal_pen : (s.staleTotal).pen = s.pen := rfl
@[simp] theorem State.staleTotal_code : (s.staleTotal).code = s.code := rfl
@[simp] theorem State.staleTotal_grid : (s.staleTotal).grid = s.grid := rfl
@[simp] theorem State.staleTotal_seq : (s.staleTotal).seq = s.seq := rfl
@[simp] theorem State.staleTotal_tpl : (s.staleTotal).tpl = s.tpl := rfl
@[simp] theorem State.staleTotal_work : (s.staleTotal).work = s.work := rfl
@[simp] theorem State.staleTotal_cand : (s.staleTotal).cand = s.cand := rfl
@[simp] theorem State.staleTotal_out : (s.staleTotal).out = s.out := rfl
@[simp] theorem State.staleTotal_cw : (s.staleTotal).cw = s.cw := rfl
@[simp] theorem State.staleTotal_config : (s.staleTotal).config = s.config := rfl
@[simp] theorem State.staleTotal_cwStamp : (s.staleTotal).cwStamp = s.cwStamp := rfl
@[simp] theorem State.staleTotal_engineStamp : (s.staleTotal).engineStamp = s.engineStamp := rfl
@[simp] theorem State.staleTotal_port : (s.staleTotal).port = s.port := rfl

@[simp] theorem State.writeCmd_status (w : Word) : (s.writeCmd w).status = { s.status with busy := true } := rfl
@[simp] theorem State.latchCode_status : s.latchCode.status = { s.status with codeOk := true } := rfl
@[simp] theorem State.staleTotal_status : s.staleTotal.status = { s.status with penOk := false } := rfl
@[simp] theorem State.answered_events (a : BusAnswer) : (s.answered a).port.events = s.port.events := rfl
@[simp] theorem State.answered_answer (a : BusAnswer) : (s.answered a).port.answer = some a := rfl
@[simp] theorem State.withEvents_events (es : List Event) : (s.withEvents es).port.events = es := rfl
@[simp] theorem State.withEvents_answer (es : List Event) : (s.withEvents es).port.answer = s.port.answer := rfl

end

end Sys2Proof.Machine
end

