-- ==== Sys2Proof/Laws/Paint.lean ====
section
/-! SUPPORT. The laws of painting (rule R13): what one `paint`, and a list of paints, does to each cell and each module, that
it does nothing else, and that it keeps the canonical form. -/

namespace Sys2Proof.Machine

/-! ### Template banks -/

theorem State.bank_setTplPixel (s : State) (k k' r c : Nat) (v : Bool) :
    (s.setTplPixel k' r c v).bank k =
      if k = k' ∧ k < 8 then setPixel (s.bank k) (Config.freeByte s.engineStamp (tplBank k)) s.stride r c v
      else s.bank k := by
  unfold State.setTplPixel State.bank
  simp only [Vector.getElem?_setIfInBounds]
  by_cases h : k' = k
  · subst h
    by_cases h8 : k' < 8 <;> simp [h8]
  · simp [h, Ne.symm h]

/-- One module of one template after one module was written. -/
theorem State.tplPixel_setTplPixel (s : State) {k k' r c r' c' : Nat} (v : Bool) (hk : k < 8)
    (hc : c < 8 * s.stride) (hc' : c' < 8 * s.stride) :
    (s.setTplPixel k' r' c' v).tplPixel k r c =
      if k = k' ∧ r = r' ∧ c = c' then v else s.tplPixel k r c := by
  show pixel (byteAt ((s.setTplPixel k' r' c' v).bank k) _) s.stride r c = _
  rw [State.bank_setTplPixel]
  by_cases h : k = k'
  · subst h
    rw [if_pos ⟨rfl, hk⟩]
    show pixel (byteAt (setPixel _ (Config.freeByte s.engineStamp (tplBank k)) _ _ _ _)
      (Config.freeByte s.engineStamp (tplBank k))) _ _ _ = _
    rw [pixel_setPixel _ _ _ hc hc']
    simp [State.tplPixel]
    rfl
  · simp [h]; rfl

@[simp] theorem State.setTplPixel_side (s : State) (k r c : Nat) (v : Bool) : (s.setTplPixel k r c v).side = s.side := rfl
@[simp] theorem State.setTplPixel_stride (s : State) (k r c : Nat) (v : Bool) :
    (s.setTplPixel k r c v).stride = s.stride := rfl
@[simp] theorem State.setTplPixel_ncopy (s : State) (k r c : Nat) (v : Bool) :
    (s.setTplPixel k r c v).ncopy = s.ncopy := rfl
@[simp] theorem State.setTplPixel_cell (s : State) (k r c r' c' : Nat) (v : Bool) :
    (s.setTplPixel k r c v).cell r' c' = s.cell r' c' := rfl

/-- Every template bank is in canonical form. -/
abbrev TemplatesWf (tpl : Templates) : Prop := ∀ k : Fin 8, Memory.wf tpl[k]

theorem templatesWf_setIfInBounds (tpl : Templates) (k : Nat) (m : Memory Byte) (h : TemplatesWf tpl)
    (hm : Memory.wf m) : TemplatesWf (tpl.setIfInBounds k m) := by
  intro j
  have : (tpl.setIfInBounds k m)[j] = if k = j.val then m else tpl[j] := by
    simp [Vector.getElem_setIfInBounds]
  rw [this]; split
  · exact hm
  · exact h j

theorem State.bank_wf (s : State) (k : Nat) (h : TemplatesWf s.tpl) : Memory.wf (s.bank k) := by
  unfold State.bank
  by_cases hk : k < 8
  · simpa [hk] using h ⟨k, hk⟩
  · simp [hk]

theorem State.setTplPixel_wf (s : State) (k r c : Nat) (v : Bool) (h : TemplatesWf s.tpl) :
    TemplatesWf (s.setTplPixel k r c v).tpl :=
  templatesWf_setIfInBounds _ _ _ h (setPixel_wf _ _ _ _ _ _ (s.bank_wf k h))

/-! ### Drawing: a state changed in nothing but its grid and its templates -/

/-- `t` is `s` but for `GRID` and the templates. -/
abbrev SameButDrawing (s t : State) : Prop := t = { s with grid := t.grid, tpl := t.tpl }

theorem SameButDrawing.refl (s : State) : SameButDrawing s s := rfl

theorem SameButDrawing.trans {s t u : State} (h : SameButDrawing s t) (h' : SameButDrawing t u) :
    SameButDrawing s u := by
  unfold SameButDrawing at *; rw [h'] ; rw [h]

/-- `t` is `s` but for the templates. -/
abbrev SameButTemplates (s t : State) : Prop := t = { s with tpl := t.tpl }

theorem SameButTemplates.refl (s : State) : SameButTemplates s s := rfl

theorem SameButTemplates.trans {s t u : State} (h : SameButTemplates s t) (h' : SameButTemplates t u) :
    SameButTemplates s u := by
  unfold SameButTemplates at *; rw [h']; rw [h]

theorem State.setTplPixel_sameButTemplates (s : State) (k r c : Nat) (v : Bool) :
    SameButTemplates s (s.setTplPixel k r c v) := rfl

/-- A fold of steps that each keep all but the templates keeps all but the templates. -/
theorem foldl_sameButTemplates {β : Type} (f : State → β → State) (hf : ∀ s b, SameButTemplates s (f s b))
    (l : List β) (s : State) : SameButTemplates s (l.foldl f s) := by
  induction l generalizing s with
  | nil => exact .refl s
  | cons b l ih => exact (hf s b).trans (ih (f s b))

theorem SameButTemplates.stride {s t : State} (h : SameButTemplates s t) : t.stride = s.stride := by rw [h]; rfl
theorem SameButTemplates.side {s t : State} (h : SameButTemplates s t) : t.side = s.side := by rw [h]; rfl
theorem SameButTemplates.ncopy {s t : State} (h : SameButTemplates s t) : t.ncopy = s.ncopy := by rw [h]; rfl
theorem SameButTemplates.cell {s t : State} (h : SameButTemplates s t) (r c : Nat) : t.cell r c = s.cell r c := by
  rw [h]; rfl

theorem SameButDrawing.stride {s t : State} (h : SameButDrawing s t) : t.stride = s.stride := by rw [h]; rfl
theorem SameButDrawing.side {s t : State} (h : SameButDrawing s t) : t.side = s.side := by rw [h]; rfl
theorem SameButDrawing.ncopy {s t : State} (h : SameButDrawing s t) : t.ncopy = s.ncopy := by rw [h]; rfl
theorem SameButDrawing.status {s t : State} (h : SameButDrawing s t) : t.status = s.status := by rw [h]
theorem SameButDrawing.plan {s t : State} (h : SameButDrawing s t) : t.plan = s.plan := by rw [h]
theorem SameButDrawing.config {s t : State} (h : SameButDrawing s t) : t.config = s.config := by rw [h]

/-! ### One paint -/

/-- Writing one module in the first `n` templates. -/
theorem setTplPixel_range (s : State) (n : Nat) {k r c r' c' : Nat} (v : Bool) (hk : k < 8) (hc : c < 8 * s.stride)
    (hc' : c' < 8 * s.stride) :
    ((List.range n).foldl (fun t k => State.setTplPixel t k r' c' v) s).tplPixel k r c =
      if k < n ∧ r = r' ∧ c = c' then v else s.tplPixel k r c := by
  induction n with
  | zero => simp
  | succ n ih =>
    have hs := foldl_sameButTemplates (fun t k => State.setTplPixel t k r' c' v)
      (fun s k => s.setTplPixel_sameButTemplates k r' c' v) (List.range n) s
    rw [List.range_succ, List.foldl_append, List.foldl_cons, List.foldl_nil,
      State.tplPixel_setTplPixel _ _ hk (by rw [hs.stride]; exact hc) (by rw [hs.stride]; exact hc'), ih]
    by_cases h : r = r' ∧ c = c'
    · by_cases hkn : k = n
      · simp [h, hkn]
      · by_cases hlt : k < n
        · simp [h, hkn, hlt, show k < n + 1 by omega]
        · simp [h, hkn, hlt, show ¬ k < n + 1 by omega]
    · simp [h]

theorem State.paint_sameButDrawing (s : State) (p : Paint) : SameButDrawing s (s.paint p) := by
  have h := foldl_sameButTemplates (fun t k => State.setTplPixel t k p.r p.c p.colour)
    (fun s k => s.setTplPixel_sameButTemplates k p.r p.c p.colour) (List.range s.ncopy)
    { s with grid := Memory.set s.grid (cellIndex p.r p.c) ⟨p.role, .ofNat 15 p.off⟩ }
  unfold SameButDrawing State.paint
  rw [h]

theorem State.paint_grid (s : State) (p : Paint) :
    (s.paint p).grid = Memory.set s.grid (cellIndex p.r p.c) ⟨p.role, .ofNat 15 p.off⟩ := by
  have h := foldl_sameButTemplates (fun t k => State.setTplPixel t k p.r p.c p.colour)
    (fun s k => s.setTplPixel_sameButTemplates k p.r p.c p.colour) (List.range s.ncopy)
    { s with grid := Memory.set s.grid (cellIndex p.r p.c) ⟨p.role, .ofNat 15 p.off⟩ }
  unfold State.paint
  rw [h]

/-- A cell after one paint. -/
theorem State.cell_paint (s : State) (p : Paint) (r c : Nat) :
    (s.paint p).cell r c =
      if cellIndex p.r p.c = cellIndex r c then ⟨p.role, .ofNat 15 p.off⟩ else s.cell r c := by
  unfold State.cell
  rw [State.paint_grid, show (s.paint p).engineStamp = s.engineStamp by rw [s.paint_sameButDrawing p],
    Memory.get?_set]
  split <;> rfl

/-- A module after one paint. -/
theorem State.tplPixel_paint (s : State) (p : Paint) {k r c : Nat} (hk : k < 8) (hc : c < 8 * s.stride)
    (hp : p.c < 8 * s.stride) :
    (s.paint p).tplPixel k r c =
      if k < s.ncopy ∧ r = p.r ∧ c = p.c then p.colour else s.tplPixel k r c := by
  unfold State.paint
  rw [setTplPixel_range _ _ _ hk (by exact hc) (by exact hp)]
  rfl

theorem State.paint_wf (s : State) (p : Paint) (hg : Memory.wf s.grid) (ht : TemplatesWf s.tpl) :
    Memory.wf (s.paint p).grid ∧ TemplatesWf (s.paint p).tpl := by
  refine ⟨by rw [State.paint_grid]; exact Memory.set_wf _ _ _ hg, ?_⟩
  unfold State.paint
  have key : ∀ (l : List Nat) (u : State), TemplatesWf u.tpl →
      TemplatesWf (l.foldl (fun t k => State.setTplPixel t k p.r p.c p.colour) u).tpl := by
    intro l
    induction l with
    | nil => exact fun u h => h
    | cons k l ih => exact fun u h => ih _ (u.setTplPixel_wf _ _ _ _ h)
  exact key _ _ ht

/-! ### A list of paints -/

theorem State.paintAll_sameButDrawing (s : State) (ps : List Paint) : SameButDrawing s (s.paintAll ps) := by
  unfold State.paintAll
  induction ps generalizing s with
  | nil => exact .refl s
  | cons p ps ih => exact (s.paint_sameButDrawing p).trans (ih _)

theorem State.paintAll_wf (s : State) (ps : List Paint) (hg : Memory.wf s.grid) (ht : TemplatesWf s.tpl) :
    Memory.wf (s.paintAll ps).grid ∧ TemplatesWf (s.paintAll ps).tpl := by
  unfold State.paintAll
  induction ps generalizing s with
  | nil => exact ⟨hg, ht⟩
  | cons p ps ih => exact ih _ (s.paint_wf p hg ht).1 (s.paint_wf p hg ht).2

/-- A cell no paint of the list hits is unchanged. -/
theorem State.cell_paintAll_of_not_hit (s : State) (ps : List Paint) (r c : Nat)
    (h : ∀ p ∈ ps, cellIndex p.r p.c ≠ cellIndex r c) : (s.paintAll ps).cell r c = s.cell r c := by
  unfold State.paintAll
  induction ps generalizing s with
  | nil => rfl
  | cons p ps ih =>
    rw [List.foldl_cons, ih _ fun q hq => h q (by simp [hq]), State.cell_paint, if_neg (h p (by simp))]

/-- A cell some paint hits holds the role and offset the paints that hit it agree on. -/
theorem State.cell_paintAll_of_hit (s : State) (ps : List Paint) (r c : Nat) (x : Cell)
    (hit : ∃ p ∈ ps, cellIndex p.r p.c = cellIndex r c)
    (agree : ∀ p ∈ ps, cellIndex p.r p.c = cellIndex r c → (⟨p.role, .ofNat 15 p.off⟩ : Cell) = x) :
    (s.paintAll ps).cell r c = x := by
  unfold State.paintAll
  induction ps generalizing s with
  | nil => simp at hit
  | cons p ps ih =>
    rw [List.foldl_cons]
    by_cases h : ∃ q ∈ ps, cellIndex q.r q.c = cellIndex r c
    · exact ih _ h fun q hq => agree q (by simp [hq])
    · have hp : cellIndex p.r p.c = cellIndex r c := by
        obtain ⟨q, hq, hqi⟩ := hit
        rcases List.mem_cons.mp hq with rfl | hq
        · exact hqi
        · exact absurd ⟨q, hq, hqi⟩ h
      have := State.cell_paintAll_of_not_hit (s.paint p) ps r c fun q hq hqi => h ⟨q, hq, hqi⟩
      unfold State.paintAll at this
      rw [this, State.cell_paint, if_pos hp, agree p (by simp) hp]

/-- A module no paint of the list hits, or of a template that is no copy of the plan, is unchanged. -/
theorem State.tplPixel_paintAll_of_not_hit (s : State) (ps : List Paint) {k r c : Nat} (hk : k < 8)
    (hc : c < 8 * s.stride) (hps : ∀ p ∈ ps, p.c < 8 * s.stride)
    (h : s.ncopy ≤ k ∨ ∀ p ∈ ps, ¬ (p.r = r ∧ p.c = c)) : (s.paintAll ps).tplPixel k r c = s.tplPixel k r c := by
  unfold State.paintAll
  induction ps generalizing s with
  | nil => rfl
  | cons p ps ih =>
    have hd := s.paint_sameButDrawing p
    rw [List.foldl_cons, ih _ (by rw [hd.stride]; exact hc)
      (fun q hq => by rw [hd.stride]; exact hps q (by simp [hq]))
      (by rw [hd.ncopy]; exact h.imp id fun h q hq => h q (by simp [hq])),
      State.tplPixel_paint _ _ hk hc (hps p (by simp)), if_neg]
    rintro ⟨h1, rfl, rfl⟩
    rcases h with h | h
    · omega
    · exact h p (by simp) ⟨rfl, rfl⟩

/-- A module some paint hits has, in every template of the plan, the colour the paints that hit it agree on. -/
theorem State.tplPixel_paintAll_of_hit (s : State) (ps : List Paint) {k r c : Nat} (v : Bool) (hk : k < 8)
    (hkn : k < s.ncopy) (hc : c < 8 * s.stride) (hps : ∀ p ∈ ps, p.c < 8 * s.stride)
    (hit : ∃ p ∈ ps, p.r = r ∧ p.c = c) (agree : ∀ p ∈ ps, p.r = r ∧ p.c = c → p.colour = v) :
    (s.paintAll ps).tplPixel k r c = v := by
  unfold State.paintAll
  induction ps generalizing s with
  | nil => simp at hit
  | cons p ps ih =>
    have hd := s.paint_sameButDrawing p
    rw [List.foldl_cons]
    have hc' : c < 8 * (s.paint p).stride := by rw [hd.stride]; exact hc
    have hps' : ∀ q ∈ ps, q.c < 8 * (s.paint p).stride := fun q hq => by rw [hd.stride]; exact hps q (by simp [hq])
    by_cases h : ∃ q ∈ ps, q.r = r ∧ q.c = c
    · exact ih _ (by rw [hd.ncopy]; exact hkn) hc' hps' h fun q hq => agree q (by simp [hq])
    · have hp : p.r = r ∧ p.c = c := by
        obtain ⟨q, hq, hqi⟩ := hit
        rcases List.mem_cons.mp hq with rfl | hq
        · exact hqi
        · exact absurd ⟨q, hq, hqi⟩ h
      have := State.tplPixel_paintAll_of_not_hit (s.paint p) ps hk hc' hps'
        (.inr fun q hq hqi => h ⟨q, hq, hqi⟩)
      unfold State.paintAll at this
      rw [this, State.tplPixel_paint _ _ hk hc (hps p (by simp)), if_pos ⟨hkn, hp.1.symm, hp.2.symm⟩,
        agree p (by simp) hp]

end Sys2Proof.Machine
end

