-- ==== Sys2Proof/Laws/Command.lean ====
section
/-! SUPPORT. What a command can do, said once: the five ways `runCommand` ends, the effect of every command but `RESET`, and
what every effect keeps. -/

namespace Sys2Proof.Machine

/-! ### The frame of a command (rules R103, R212) -/

theorem runCommand_locked {s : State} (h : s.status.fatal = true) (pre param operand : Bool) (e : State → Effect) :
    runCommand s pre param operand e = .next (s.reject .locked) := by
  simp [runCommand, h]

theorem runCommand_badState {s : State} (h : s.status.fatal = false) (param operand : Bool) (e : State → Effect) :
    runCommand s false param operand e = .next (s.reject .badState) := by
  simp [runCommand, h]

theorem runCommand_invalidParameter {s : State} (h : s.status.fatal = false) (operand : Bool) (e : State → Effect) :
    runCommand s true false operand e = .next (s.reject .invalidParameter) := by
  simp [runCommand, h]

theorem runCommand_badOperand {s : State} (h : s.status.fatal = false) (e : State → Effect) :
    runCommand s true true false e = .next (s.reject .badOperand) := by
  simp [runCommand, h]

theorem runCommand_ready {s : State} (h : s.status.fatal = false) (e : State → Effect) :
    runCommand s true true true e = conclude s (e s) := by
  simp [runCommand, h]

/-- The five ways a command ends, with the tests that lead to each. -/
theorem runCommand_cases (s : State) (pre param operand : Bool) (e : State → Effect) :
    (s.status.fatal = true ∧ runCommand s pre param operand e = .next (s.reject .locked))
    ∨ (s.status.fatal = false ∧ pre = false ∧ runCommand s pre param operand e = .next (s.reject .badState))
    ∨ (s.status.fatal = false ∧ pre = true ∧ param = false
      ∧ runCommand s pre param operand e = .next (s.reject .invalidParameter))
    ∨ (s.status.fatal = false ∧ pre = true ∧ param = true ∧ operand = false
      ∧ runCommand s pre param operand e = .next (s.reject .badOperand))
    ∨ (s.status.fatal = false ∧ pre = true ∧ param = true ∧ operand = true
      ∧ runCommand s pre param operand e = conclude s (e s)) := by
  cases hf : s.status.fatal <;> cases pre <;> cases param <;> cases operand <;> simp [runCommand, hf]

/-- The three ways an effect ends a command. -/
theorem conclude_next {s t : State} {e : Effect} (h : conclude s e = .next t) :
    (∃ u, e = .done u ∧ t = u.finish) ∨ ∃ code, e = .fatal code ∧ t = s.raiseFatal code := by
  cases e with
  | done u => exact .inl ⟨u, rfl, by simpa [conclude] using h.symm⟩
  | fatal code => exact .inr ⟨code, rfl, by simpa [conclude] using h.symm⟩
  | stuck f => simp [conclude] at h

@[simp] theorem Effect.andThen_done (s : State) (f : State → Effect) : (Effect.done s).andThen f = f s := rfl
@[simp] theorem Effect.andThen_fatal (code : FatalCode) (f : State → Effect) :
    (Effect.fatal code).andThen f = .fatal code := rfl
@[simp] theorem Effect.andThen_stuck (r : Fault) (f : State → Effect) : (Effect.stuck r).andThen f = .stuck r := rfl

theorem Effect.andThen_eq_done {e : Effect} {f : State → Effect} {t : State} (h : e.andThen f = .done t) :
    ∃ u, e = .done u ∧ f u = .done t := by
  cases e with
  | done u => exact ⟨u, rfl, h⟩
  | fatal _ => cases h
  | stuck _ => cases h

theorem Effect.andThen_eq_fatal {e : Effect} {f : State → Effect} {code : FatalCode} (h : e.andThen f = .fatal code) :
    e = .fatal code ∨ ∃ u, e = .done u ∧ f u = .fatal code := by
  cases e with
  | done u => exact .inr ⟨u, rfl, h⟩
  | fatal _ => exact .inl h
  | stuck _ => cases h

/-! ### The effect of each command -/

/-- The effect of a `PS.*` command. -/
def scoreEffect (src : Nat) (effect : Source → State → State) (s : State) : Effect :=
  .done (match sourceOf src with
    | some b => effect b s
    | none => s)

/-- The effect of each command but `RESET`, which runs no effect. -/
def effectOf : Instr → State → Effect
  | .nop => .done
  | .reset => .done
  | .gpInit n => fun s => .done (gpInit n s)
  | .gpTiming => fun s => .done (gpTiming s)
  | .gpFinder => fun s => .done (gpFinder s)
  | .gpAlign => gpAlign
  | .gpVerinfo => fun s => .done (gpVerinfo s)
  | .gpFmtrsv => fun s => .done (gpFmtrsv s)
  | .gpDark => fun s => .done (gpDark s)
  | .gpAll n => gpAll n
  | .blParam => blParam
  | .blIlv => fun s => .done (blIlv s)
  | .blSweep => blSweep
  | .blAll => blAll
  | .fiEnc m => fun s => .done (fiEnc m s)
  | .fiPaint k => fun s => .done (fiPaint k s)
  | .fiPlan m k => fun s => .done (fiPlan m k s)
  | .mkApply m k => fun s => .done (mkApply m k s)
  | .psRun src => scoreEffect src psRun
  | .psBox src => scoreEffect src psBox
  | .psFind src => scoreEffect src psFind
  | .psBal src => scoreEffect src psBal
  | .psScore src => scoreEffect src psScore
  | .enPlace => enPlace
  | .enCand k => fun s => .done (enCand k s)
  | .enKeep => fun s => .done (enKeep s)
  | .enSelect => fun s => .done (enSelect s)
  | .enEncode => enEncode
  | .plPlan => plPlan

theorem legalTemplate_eq (k : Nat) (s : State) : legalTemplate k s = decide (k ≤ 7 ∧ k < s.plan.ncopy.toNat) := by
  simp [legalTemplate]

theorem legalSource_eq (src : Nat) : legalSource src = decide (src ≤ 2) := rfl

theorem sourceReady_eq (src : Nat) (s : State) :
    sourceReady src s =
      if src = 0 then s.status.candOk else if src = 1 then s.status.codeOk else if src = 2 then s.status.workOk else true := by
  match src with
  | 0 | 1 | 2 => rfl
  | n + 3 => simp [sourceReady, sourceOf]

theorem legalRequestedMask_eq (s : State) :
    legalRequestedMask s = decide (s.cfg.mask.toNat ≤ 7 ∨ s.cfg.mask.toNat = 15) := by
  have key : ∀ m : BitVec 4, (decide (-1 ≤ m.toInt) && decide (m.toInt ≤ 7)) = decide (m.toNat ≤ 7 ∨ m.toNat = 15) := by
    decide
  exact key _

/-- Every command but `RESET` is the frame of a command around its effect, with the tests of rules R108 and R211. -/
theorem exec_eq {i : Instr} (hi : i ≠ .reset) (s : State) :
    exec i s = runCommand s (precondition i s) (parametersInRange i s) (operandsInRange i s) (effectOf i) := by
  cases i with
  | reset => exact absurd rfl hi
  | fiPaint k => simp only [exec, execFiPaint, legalTemplate_eq]; rfl
  | fiPlan m k => simp only [exec, execFiPlan, legalTemplate_eq]; rfl
  | mkApply m k => simp only [exec, execMkApply, legalTemplate_eq]; rfl
  | psRun src => simp only [exec, execPsRun, scoreCommand, sourceReady_eq]; rfl
  | psBox src => simp only [exec, execPsBox, scoreCommand, sourceReady_eq]; rfl
  | psFind src => simp only [exec, execPsFind, scoreCommand, sourceReady_eq]; rfl
  | psBal src => simp only [exec, execPsBal, scoreCommand, sourceReady_eq]; rfl
  | psScore src => simp only [exec, execPsScore, scoreCommand, sourceReady_eq]; rfl
  | plPlan =>
    simp only [exec, execPlPlan, legalRequestedMask_eq, precondition, parametersInRange, operandsInRange, effectOf,
      legalVersion, legalLevel, ← Bool.decide_and]
  | enCand k =>
    have h : (s.ncopy == 8) = (s.plan.ncopy == 8) := by
      rw [Bool.eq_iff_iff, beq_iff_eq, beq_iff_eq, ← BitVec.toNat_inj]; rfl
    simp only [exec, execEnCand, legalTemplate_eq, h]; rfl
  | gpInit n =>
    simp only [exec, execGpInit, precondition, parametersInRange, operandsInRange, effectOf, legalVersion, legalCopies,
      ← Bool.decide_and]
  | gpAll n =>
    simp only [exec, execGpAll, precondition, parametersInRange, operandsInRange, effectOf, legalVersion, legalCopies,
      ← Bool.decide_and]
  | blParam =>
    simp only [exec, execBlParam, precondition, parametersInRange, operandsInRange, effectOf, layoutOpen, legalLevel,
      Bool.and_assoc]
  | blIlv =>
    simp only [exec, execBlIlv, precondition, parametersInRange, operandsInRange, effectOf, layoutOpen, Bool.and_assoc]
  | blSweep =>
    simp only [exec, execBlSweep, precondition, parametersInRange, operandsInRange, effectOf, layoutOpen, Bool.and_assoc]
  | blAll =>
    simp only [exec, execBlAll, precondition, parametersInRange, operandsInRange, effectOf, layoutOpen, legalLevel,
      Bool.and_assoc]
  | _ => rfl

/-- A ready command is its effect, concluded. -/
theorem exec_of_ready {i : Instr} (hi : i ≠ .reset) {s : State} (h : Ready i s) :
    exec i s = conclude s (effectOf i s) := by
  rw [exec_eq hi, h.2.1, h.2.2.1, h.2.2.2, runCommand_ready h.1]

/-- What a next state of a command is: the end of a rejection that changed nothing else, of an effect, or of a `Fatal`. -/
theorem exec_next_cases {i : Instr} (hi : i ≠ .reset) {s t : State} (h : exec i s = .next t) :
    (∃ code, t = s.reject code ∧ code ≠ .ok ∧ code ≠ .fatalRaised ∧ code ≠ .illegalCommand)
    ∨ (Ready i s ∧ ∃ u, effectOf i s = .done u ∧ t = u.finish)
    ∨ (Ready i s ∧ ∃ code, effectOf i s = .fatal code ∧ t = s.raiseFatal code) := by
  rw [exec_eq hi] at h
  rcases runCommand_cases s (precondition i s) (parametersInRange i s) (operandsInRange i s) (effectOf i) with
    ⟨-, h'⟩ | ⟨-, -, h'⟩ | ⟨-, -, -, h'⟩ | ⟨-, -, -, -, h'⟩ | ⟨h1, h2, h3, h4, h'⟩
  · rw [h'] at h; exact .inl ⟨.locked, by simpa using h.symm, by decide, by decide, by decide⟩
  · rw [h'] at h; exact .inl ⟨.badState, by simpa using h.symm, by decide, by decide, by decide⟩
  · rw [h'] at h; exact .inl ⟨.invalidParameter, by simpa using h.symm, by decide, by decide, by decide⟩
  · rw [h'] at h; exact .inl ⟨.badOperand, by simpa using h.symm, by decide, by decide, by decide⟩
  · rw [h'] at h
    rcases conclude_next h with hu | hc
    · exact .inr (.inl ⟨⟨h1, h2, h3, h4⟩, hu⟩)
    · exact .inr (.inr ⟨⟨h1, h2, h3, h4⟩, hc⟩)

/-! ### What every effect keeps -/

/-- No effect writes the host's registers, `CW`, the latch, the parameters, the boundary, or the error registers; the codes
of an outcome are written at the end of the command. -/
structure Keeps (s t : State) : Prop where
  cfg         : t.cfg = s.cfg
  cwlen       : t.cwlen = s.cwlen
  errcmd      : t.errcmd = s.errcmd
  fatalcode   : t.fatalcode = s.fatalcode
  pending     : t.pending = s.pending
  cw          : t.cw = s.cw
  config      : t.config = s.config
  cwStamp     : t.cwStamp = s.cwStamp
  engineStamp : t.engineStamp = s.engineStamp
  port        : t.port = s.port
  fatal       : t.status.fatal = s.status.fatal

theorem Keeps.refl (s : State) : Keeps s s := ⟨rfl, rfl, rfl, rfl, rfl, rfl, rfl, rfl, rfl, rfl, rfl⟩

theorem Keeps.trans {s t u : State} (h : Keeps s t) (h' : Keeps t u) : Keeps s u where
  cfg := h'.cfg.trans h.cfg
  cwlen := h'.cwlen.trans h.cwlen
  errcmd := h'.errcmd.trans h.errcmd
  fatalcode := h'.fatalcode.trans h.fatalcode
  pending := h'.pending.trans h.pending
  cw := h'.cw.trans h.cw
  config := h'.config.trans h.config
  cwStamp := h'.cwStamp.trans h.cwStamp
  engineStamp := h'.engineStamp.trans h.engineStamp
  port := h'.port.trans h.port
  fatal := h'.fatal.trans h.fatal

theorem SameButDrawing.keeps {s t : State} (h : SameButDrawing s t) : Keeps s t := by
  rw [h]; exact ⟨rfl, rfl, rfl, rfl, rfl, rfl, rfl, rfl, rfl, rfl, rfl⟩

theorem SameButTemplates.keeps {s t : State} (h : SameButTemplates s t) : Keeps s t := by
  rw [h]; exact ⟨rfl, rfl, rfl, rfl, rfl, rfl, rfl, rfl, rfl, rfl, rfl⟩

theorem State.finish_keeps (s : State) : Keeps s s.finish := ⟨rfl, rfl, rfl, rfl, rfl, rfl, rfl, rfl, rfl, rfl, rfl⟩

/-- A fold of steps that each keep a relation that is reflexive and transitive. -/
theorem foldl_keeps {β : Type} (f : State → β → State) (hf : ∀ s b, Keeps s (f s b)) (l : List β) (s : State) :
    Keeps s (l.foldl f s) := by
  induction l generalizing s with
  | nil => exact .refl s
  | cons b l ih => exact (hf s b).trans (ih _)

theorem gpInit_keeps (n : Nat) (s : State) : Keeps s (gpInit n s) :=
  ⟨rfl, rfl, rfl, rfl, rfl, rfl, rfl, rfl, rfl, rfl, rfl⟩

theorem gridStep_keeps (ps : List Paint) (k : Fin 7) (s : State) : Keeps s (gridStep ps k s) := by
  have h := (s.paintAll_sameButDrawing ps).keeps
  exact ⟨h.1, h.2, h.3, h.4, h.5, h.6, h.7, h.8, h.9, h.10, h.11⟩

/-- `t` is `s` but for `GRID`, the templates and `GPSTEP`. -/
abbrev SameButGridStep (s t : State) : Prop :=
  t = { s with status := { s.status with gpstep := t.status.gpstep }, grid := t.grid, tpl := t.tpl }

theorem SameButGridStep.trans {s t u : State} (h : SameButGridStep s t) (h' : SameButGridStep t u) :
    SameButGridStep s u := by
  unfold SameButGridStep at *
  rw [h', h]

theorem gridStep_sameButGridStep (ps : List Paint) (k : Fin 7) (s : State) : SameButGridStep s (gridStep ps k s) := by
  unfold SameButGridStep gridStep
  dsimp only
  rw [State.paintAll_sameButDrawing]

@[simp] theorem gridStep_gpstep (ps : List Paint) (k : Fin 7) (s : State) : (gridStep ps k s).status.gpstep = k := rfl

theorem gpAlign_done {s t : State} (h : gpAlign s = .done t) :
    ∃ coords, alignCoords s.capEntry s.side = some coords ∧ t = gridStep (alignPaints s.side coords) 3 s := by
  unfold gpAlign at h
  split at h
  · exact ⟨_, ‹_›, by simpa using h.symm⟩
  · cases h

theorem gpAlign_ne_fatal (s : State) (code : FatalCode) : gpAlign s ≠ .fatal code := by
  unfold gpAlign; split <;> simp

theorem gpAll_done {n : Nat} {s t : State} (h : gpAll n s = .done t) :
    ∃ u, gpAlign (gpFinder (gpTiming (gpInit n s))) = .done u ∧ t = gpDark (gpFmtrsv (gpVerinfo u)) := by
  obtain ⟨u, hu, ht⟩ := Effect.andThen_eq_done h
  exact ⟨u, hu, by simpa using ht.symm⟩

theorem gpAll_ne_fatal (n : Nat) (s : State) (code : FatalCode) : gpAll n s ≠ .fatal code := by
  intro h
  rcases Effect.andThen_eq_fatal h with h | ⟨u, -, h⟩
  · exact gpAlign_ne_fatal _ _ h
  · cases h

/-- `GP.ALL n` is `GP.INIT n` but for `GRID`, the templates and `GPSTEP = 6`. -/
theorem gpAll_frame {n : Nat} {s t : State} (h : gpAll n s = .done t) :
    SameButGridStep (gpInit n s) t ∧ t.status.gpstep = 6 := by
  obtain ⟨u, hu, rfl⟩ := gpAll_done h
  obtain ⟨c, -, rfl⟩ := gpAlign_done hu
  refine ⟨?_, rfl⟩
  exact (gridStep_sameButGridStep _ _ _).trans <| (gridStep_sameButGridStep _ _ _).trans <|
    (gridStep_sameButGridStep _ _ _).trans <| (gridStep_sameButGridStep _ _ _).trans <|
    (gridStep_sameButGridStep _ _ _).trans (gridStep_sameButGridStep _ _ _)

theorem blParam_done {s t : State} (h : blParam s = .done t) :
    levelSound s.capEntry s.cfg.level.toNat
    ∧ t = { s with
        status := s.status.paramsComputed
        plan := { s.plan with
          plancfg := { s.plan.plancfg with level := s.cfg.level }
          nb := t.plan.nb, ne := t.plan.ne, nde := t.plan.nde, extra := t.plan.extra
          databytes := t.plan.databytes, checkbytes := t.plan.checkbytes } } := by
  simp only [blParam] at h
  split at h
  · cases h
  · rename_i hc
    simp only [Effect.done.injEq] at h
    subst h
    refine ⟨?_, rfl⟩
    unfold levelSound
    omega

theorem blParam_fatal {s : State} {code : FatalCode} (h : blParam s = .fatal code) : code = .tableDefect := by
  simp only [blParam] at h
  split at h
  · simpa using h.symm
  · cases h

theorem blSweep_done {s t : State} (h : blSweep s = .done t) :
    ∃ grid p, sweepLoop s (sweepOrder s.side) s.grid 0 = some (grid, p)
      ∧ 8 * (s.plan.databytes.toNat + s.plan.checkbytes.toNat) ≤ p
      ∧ t = { s with
          status := { s.status with layoutOk := true }, plan := { s.plan with freecnt := .ofNat 32 p }, grid := grid } := by
  unfold blSweep at h
  split at h
  · cases h
  · rename_i grid p hl
    split at h
    · cases h
    · exact ⟨grid, p, hl, by omega, by simpa using h.symm⟩

theorem blSweep_fatal {s : State} {code : FatalCode} (h : blSweep s = .fatal code) : code = .sweepMismatch := by
  unfold blSweep at h
  split at h
  · simpa using h.symm
  · split at h
    · simpa using h.symm
    · cases h

theorem blAll_done {s t : State} (h : blAll s = .done t) : ∃ u, blParam s = .done u ∧ blSweep (blIlv u) = .done t :=
  Effect.andThen_eq_done h

/-- What `BL.ALL` writes. -/
theorem blAll_frame {s t : State} (h : blAll s = .done t) :
    t = { s with
      status := { s.status with paramOk := true, seqOk := true, layoutOk := true, fmtOk := false }
      plan := { s.plan with
        plancfg := { s.plan.plancfg with level := s.cfg.level }
        nb := t.plan.nb, ne := t.plan.ne, nde := t.plan.nde, extra := t.plan.extra, databytes := t.plan.databytes
        checkbytes := t.plan.checkbytes, seqlen := t.plan.seqlen, freecnt := t.plan.freecnt }
      grid := t.grid, seq := t.seq } := by
  obtain ⟨u, hu, ht⟩ := blAll_done h
  obtain ⟨-, hu⟩ := blParam_done hu
  obtain ⟨g, p, -, -, rfl⟩ := blSweep_done ht
  unfold blIlv
  rw [hu]
  rfl

theorem blAll_fatal {s : State} {code : FatalCode} (h : blAll s = .fatal code) :
    code = .tableDefect ∨ code = .sweepMismatch := by
  rcases Effect.andThen_eq_fatal h with h | ⟨u, -, h⟩
  · exact .inl (blParam_fatal h)
  · exact .inr (blSweep_fatal h)

theorem fiPaint_sameButTemplates (k : Nat) (s : State) : SameButTemplates s (fiPaint k s) :=
  foldl_sameButTemplates _ (fun _ _ => rfl) _ _

theorem mkApply_sameButTemplates (m k : Nat) (s : State) : SameButTemplates s (mkApply m k s) :=
  foldl_sameButTemplates _ (fun t p => by
    split
    · exact t.setTplPixel_sameButTemplates _ _ _ _
    · exact .refl t) _ _

/-- The effect of one template of `PL.PLAN`: the templates, `FMTWORD` and `FMT_OK`. -/
theorem planTemplate_frame (m k : Nat) (s : State) :
    planTemplate m k s = { s with
      status := { s.status with fmtOk := true }
      plan := { s.plan with fmtword := formatWord s.plan.plancfg.level m }
      tpl := (planTemplate m k s).tpl } := by
  have h1 := mkApply_sameButTemplates m k (fiPlan m k s)
  have h2 := fiPaint_sameButTemplates k (fiEnc m s)
  unfold planTemplate
  rw [h1]
  unfold fiPlan
  rw [h2]
  rfl

/-- `t` is `s` but for the templates, `FMTWORD` and `FMT_OK`. -/
abbrev SameButFormat (s t : State) : Prop :=
  t = { s with
    status := { s.status with fmtOk := t.status.fmtOk }, plan := { s.plan with fmtword := t.plan.fmtword }, tpl := t.tpl }

theorem SameButFormat.trans {s t u : State} (h : SameButFormat s t) (h' : SameButFormat t u) : SameButFormat s u := by
  unfold SameButFormat at *
  rw [h', h]

theorem planTemplate_sameButFormat (m k : Nat) (s : State) : SameButFormat s (planTemplate m k s) := by
  unfold SameButFormat
  rw [planTemplate_frame]

theorem planTemplate_fmtOk (m k : Nat) (s : State) : (planTemplate m k s).status.fmtOk = true := by
  rw [planTemplate_frame]

/-- The effect of the templates of `PL.PLAN`: the templates, `FMTWORD` and `FMT_OK`. -/
theorem planTemplates_sameButFormat (s : State) :
    SameButFormat s (planTemplates s) ∧ (planTemplates s).status.fmtOk = true := by
  unfold planTemplates
  split
  · exact ⟨planTemplate_sameButFormat _ _ _, planTemplate_fmtOk _ _ _⟩
  · rename_i hm
    clear hm
    rw [show List.range 8 = List.range 7 ++ [7] from rfl, List.foldl_append, List.foldl_cons, List.foldl_nil]
    refine ⟨SameButFormat.trans ?_ (planTemplate_sameButFormat _ _ _), planTemplate_fmtOk _ _ _⟩
    generalize List.range 7 = l
    induction l generalizing s with
    | nil => rfl
    | cons k l ih => exact (planTemplate_sameButFormat k k s).trans (ih _)

theorem plPlan_done {s t : State} (h : plPlan s = .done t) :
    ∃ g u, gpAll (if 0 ≤ requestedMask s then 1 else 8) s = .done g ∧ blAll g = .done u
      ∧ t = sealPlan (planTemplates u) := by
  obtain ⟨u, hu, ht⟩ := Effect.andThen_eq_done h
  obtain ⟨g, hg, hb⟩ := Effect.andThen_eq_done hu
  exact ⟨g, u, hg, hb, by simpa using ht.symm⟩

theorem plPlan_fatal {s : State} {code : FatalCode} (h : plPlan s = .fatal code) :
    code = .tableDefect ∨ code = .sweepMismatch := by
  rcases Effect.andThen_eq_fatal h with h | ⟨u, -, h⟩
  · rcases Effect.andThen_eq_fatal h with h | ⟨g, -, h⟩
    · exact absurd h (gpAll_ne_fatal _ _ _)
    · exact blAll_fatal h
  · cases h

/-- `t` is `s` but for `WORK`. -/
abbrev SameButWork (s t : State) : Prop := t = { s with work := t.work }

theorem placeBits_sameButWork (s : State) : SameButWork s (placeBits s) := by
  unfold placeBits
  generalize coordinates s.side = l
  have key : ∀ (l : List (Nat × Nat)) (u : State), SameButWork s u → SameButWork s (l.foldl (fun t p =>
      if Role.carriesBit (s.cell p.1 p.2).role then
        t.xorWorkPixel p.1 p.2 (streamBit s.cwByte (s.cell p.1 p.2).off.toNat)
      else t) u) := by
    intro l
    induction l with
    | nil => exact fun u h => h
    | cons p l ih =>
      intro u h
      rw [List.foldl_cons]
      apply ih
      split
      · unfold SameButWork State.xorWorkPixel; rw [h]
      · exact h
  exact key l s rfl

theorem enPlace_done {s t : State} (h : enPlace s = .done t) :
    s.cwlen.toNat = s.capEntry.bytes.toNat ∧ t = { s with status := s.status.placed, work := t.work } := by
  unfold enPlace at h
  split at h
  · cases h
  · rename_i hc
    simp only [Effect.done.injEq] at h
    refine ⟨by omega, ?_⟩
    rw [← h, placeBits_sameButWork]

theorem enPlace_fatal {s : State} {code : FatalCode} (h : enPlace s = .fatal code) : code = .byteCountMismatch := by
  unfold enPlace at h
  split at h
  · simpa using h.symm
  · cases h

/-- `t` is `s` but for what the candidates of a search write: `CAND`, `OUT`, the penalty registers and two flags. -/
abbrev SameButSearch (s t : State) : Prop :=
  t = { s with
    status := { s.status with candOk := t.status.candOk, penOk := t.status.penOk }
    pen := t.pen, cand := t.cand, out := t.out }

theorem searchTurn_sameButSearch (acc : State × Option Nat) (k : Nat) :
    SameButSearch acc.1 (searchTurn acc k).1 := by
  unfold searchTurn
  dsimp only
  split
  · rfl
  · split <;> rfl

theorem searchTurns_sameButSearch (l : List Nat) (acc : State × Option Nat) :
    SameButSearch acc.1 (l.foldl searchTurn acc).1 := by
  induction l generalizing acc with
  | nil => rfl
  | cons k l ih =>
    have h1 := searchTurn_sameButSearch acc k
    have h2 := ih (searchTurn acc k)
    unfold SameButSearch at *
    rw [List.foldl_cons, h2, h1]

/-- The effect of `EN.SELECT`: `CODESIDE`, `CODESTRIDE`, `OUT`, `CODE_OK`, and what the candidates write. -/
theorem enSelect_frame (s : State) :
    enSelect s = { s with
      status := { s.status with
        codeOk := true, candOk := (enSelect s).status.candOk, penOk := (enSelect s).status.penOk }
      pen := (enSelect s).pen, code := ⟨s.plan.side, s.plan.stride⟩, cand := (enSelect s).cand, out := (enSelect s).out } := by
  unfold enSelect
  split
  · rfl
  · unfold search
    have h := searchTurns_sameButSearch (List.range 8) (s, none)
    dsimp only [State.latchCode]
    rw [h]

theorem scoreEffect_done {src : Nat} {f : Source → State → State} {s t : State} (h : scoreEffect src f s = .done t) :
    (∃ b, sourceOf src = some b ∧ t = f b s) ∨ (sourceOf src = none ∧ t = s) := by
  unfold scoreEffect at h
  split at h
  · exact .inl ⟨_, ‹_›, by simpa using h.symm⟩
  · exact .inr ⟨‹_›, by simpa using h.symm⟩

theorem gpAlign_keeps {s t : State} (h : gpAlign s = .done t) : Keeps s t := by
  obtain ⟨_, -, rfl⟩ := gpAlign_done h
  exact gridStep_keeps _ _ _

theorem gpAll_keeps {n : Nat} {s t : State} (h : gpAll n s = .done t) : Keeps s t := by
  obtain ⟨u, hu, rfl⟩ := gpAll_done h
  exact (gpInit_keeps n s).trans <| (gridStep_keeps _ _ _).trans <| (gridStep_keeps _ _ _).trans <|
    (gpAlign_keeps hu).trans <| (gridStep_keeps _ _ _).trans <| (gridStep_keeps _ _ _).trans (gridStep_keeps _ _ _)

theorem blParam_keeps {s t : State} (h : blParam s = .done t) : Keeps s t := by
  rw [(blParam_done h).2]; exact ⟨rfl, rfl, rfl, rfl, rfl, rfl, rfl, rfl, rfl, rfl, rfl⟩

theorem blIlv_keeps (s : State) : Keeps s (blIlv s) := ⟨rfl, rfl, rfl, rfl, rfl, rfl, rfl, rfl, rfl, rfl, rfl⟩

theorem blSweep_keeps {s t : State} (h : blSweep s = .done t) : Keeps s t := by
  obtain ⟨_, _, -, -, rfl⟩ := blSweep_done h
  exact ⟨rfl, rfl, rfl, rfl, rfl, rfl, rfl, rfl, rfl, rfl, rfl⟩

theorem blAll_keeps {s t : State} (h : blAll s = .done t) : Keeps s t := by
  obtain ⟨u, hu, ht⟩ := blAll_done h
  exact (blParam_keeps hu).trans ((blIlv_keeps u).trans (blSweep_keeps ht))

theorem enPlace_keeps {s t : State} (h : enPlace s = .done t) : Keeps s t := by
  rw [(enPlace_done h).2]; exact ⟨rfl, rfl, rfl, rfl, rfl, rfl, rfl, rfl, rfl, rfl, rfl⟩

theorem enSelect_keeps (s : State) : Keeps s (enSelect s) := by
  rw [enSelect_frame]; exact ⟨rfl, rfl, rfl, rfl, rfl, rfl, rfl, rfl, rfl, rfl, rfl⟩

/-- What an effect keeps, whichever command's it is (rule R94 and the frame of every command). -/
theorem effectOf_keeps {i : Instr} {s t : State} (h : effectOf i s = .done t) : Keeps s t := by
  cases i with
  | gpAlign => exact gpAlign_keeps h
  | gpAll n => exact gpAll_keeps h
  | blParam => exact blParam_keeps h
  | blSweep => exact blSweep_keeps h
  | blAll => exact blAll_keeps h
  | enPlace => exact enPlace_keeps h
  | enEncode =>
    obtain ⟨u, hu, ht⟩ := Effect.andThen_eq_done h
    simp only [Effect.done.injEq] at ht
    subst ht
    exact (enPlace_keeps hu).trans (enSelect_keeps u)
  | plPlan =>
    obtain ⟨g, u, hg, hu, rfl⟩ := plPlan_done h
    refine (gpAll_keeps hg).trans ((blAll_keeps hu).trans ?_)
    unfold sealPlan
    rw [(planTemplates_sameButFormat u).1]
    exact ⟨rfl, rfl, rfl, rfl, rfl, rfl, rfl, rfl, rfl, rfl, rfl⟩
  | gpTiming | gpFinder | gpVerinfo | gpFmtrsv | gpDark =>
    simp only [effectOf, Effect.done.injEq] at h; subst h; exact gridStep_keeps _ _ _
  | fiPaint k => simp only [effectOf, Effect.done.injEq] at h; subst h; exact (fiPaint_sameButTemplates k s).keeps
  | fiPlan m k =>
    simp only [effectOf, Effect.done.injEq] at h; subst h
    exact Keeps.trans (t := fiEnc m s) ⟨rfl, rfl, rfl, rfl, rfl, rfl, rfl, rfl, rfl, rfl, rfl⟩
      (fiPaint_sameButTemplates k (fiEnc m s)).keeps
  | mkApply m k => simp only [effectOf, Effect.done.injEq] at h; subst h; exact (mkApply_sameButTemplates m k s).keeps
  | enSelect => simp only [effectOf, Effect.done.injEq] at h; subst h; exact enSelect_keeps s
  | psRun src | psBox src | psFind src | psBal src | psScore src =>
    rcases scoreEffect_done h with ⟨b, -, rfl⟩ | ⟨-, rfl⟩
    · exact ⟨rfl, rfl, rfl, rfl, rfl, rfl, rfl, rfl, rfl, rfl, rfl⟩
    · exact .refl _
  | nop | reset | gpInit | blIlv | fiEnc | enCand | enKeep =>
    simp only [effectOf, Effect.done.injEq] at h; subst h
    exact ⟨rfl, rfl, rfl, rfl, rfl, rfl, rfl, rfl, rfl, rfl, rfl⟩

/-- The codes an effect can raise, the last column of the table of rule R218. -/
theorem effectOf_fatal {i : Instr} {s : State} {code : FatalCode} (h : effectOf i s = .fatal code) :
    code ∈ fatalCodesOf i := by
  cases i with
  | gpAlign => exact absurd h (gpAlign_ne_fatal _ _)
  | gpAll n => exact absurd h (gpAll_ne_fatal _ _ _)
  | blParam => simp [fatalCodesOf, blParam_fatal h]
  | blSweep => simp [fatalCodesOf, blSweep_fatal h]
  | blAll => simpa [fatalCodesOf] using blAll_fatal h
  | plPlan => simpa [fatalCodesOf] using plPlan_fatal h
  | enPlace => simp [fatalCodesOf, enPlace_fatal h]
  | enEncode =>
    rcases Effect.andThen_eq_fatal h with h | ⟨u, -, h⟩
    · simp [fatalCodesOf, enPlace_fatal h]
    · cases h
  | _ => cases h

end Sys2Proof.Machine
end

