-- ==== Sys2Proof/Laws/Step.lean ====
section
/-! SUPPORT. What a step can do, said once, and the canonical form of the memories through the loops of the commands. -/

namespace Sys2Proof.Machine

/-! ### The engine's turn and the host's accesses -/

/-- The engine's turn: a command, an illegal word, or nothing. -/
theorem engineStep_cases {s t : State} (h : engineStep s = .next t) :
    (∃ i, s.status.busy = true ∧ decode s.pending = .ok i ∧ exec i s = .next t)
    ∨ (s.status.busy = true ∧ (∃ e, decode s.pending = .error e) ∧ t = s.illegalCommand)
    ∨ (s.status.busy = false ∧ t = s) := by
  unfold engineStep at h
  split at h
  · rename_i hb
    split at h
    · exact .inl ⟨_, hb, ‹_›, h⟩
    · exact .inr (.inl ⟨hb, ⟨_, ‹_›⟩, by simpa using h.symm⟩)
  · rename_i hb
    exact .inr (.inr ⟨by simpa using hb, by simpa using h.symm⟩)

/-- An accepted write changes one of `CMD`'s latch with `BUSY`, `CFG`, `CWLEN` and one byte of `CW`, and nothing else. -/
theorem memWrite_cases {s t : State} {addr : BitVec 20} {width : Nat} {value : Word}
    (h : memWrite s addr width value = some t) :
    s.status.busy = false
    ∧ (t = s.writeCmd value ∨ t = { s with cfg := Selection.ofWord value } ∨ t = { s with cwlen := value.extractLsb' 0 13 }
      ∨ ∃ j, t = { s with cw := Memory.set s.cw j (value.extractLsb' 0 8) }) := by
  unfold memWrite at h
  split at h
  · cases h
  · split at h
    · cases h
    · rename_i hb
      refine ⟨by simpa using hb, ?_⟩
      unfold writeLocation at h
      split at h
      · split at h
        · exact .inl (by simpa using h.symm)
        · exact .inr (.inl (by simpa using h.symm))
        · exact .inr (.inr (.inl (by simpa using h.symm)))
        · cases h
      · exact .inr (.inr (.inr ⟨_, by simpa using h.symm⟩))
      all_goals cases h

/-- A read answers on the bus and changes nothing else. -/
theorem hostRead_eq (s : State) (addr : BitVec 20) (width : Nat) : ∃ a, hostRead s addr width = s.answered a := by
  unfold hostRead
  split <;> exact ⟨_, rfl⟩

/-- A write answers on the bus, after an accepted write or with nothing changed. -/
theorem hostWrite_cases (s : State) (addr : BitVec 20) (width : Nat) (value : Word) :
    (∃ t, memWrite s addr width value = some t ∧ hostWrite s addr width value = t.answered .stored)
    ∨ hostWrite s addr width value = s.answered .refused := by
  unfold hostWrite
  split
  · exact .inl ⟨_, ‹_›, rfl⟩
  · exact .inr rfl

/-- What one step can do: with `u` the state with the event taken off, the engine's turn, a host access or a reset. -/
theorem step_cases {s t : State} (h : step s = .next t) :
    ∃ es, (es = s.port.events ∨ ∃ e, s.port.events = e :: es)
      ∧ ((∃ i, s.status.busy = true ∧ decode s.pending = .ok i ∧ exec i (s.withEvents es) = .next t)
        ∨ (s.status.busy = true ∧ t = (s.withEvents es).illegalCommand)
        ∨ t = s.withEvents es
        ∨ (∃ a, t = (s.withEvents es).answered a)
        ∨ (∃ addr width value u, memWrite (s.withEvents es) addr width value = some u ∧ t = u.answered .stored)
        ∨ ((∃ e, s.port.events = .hardReset :: e) ∧ t = (s.withEvents es).resetEvent)) := by
  have engine : ∀ u : State, engineStep u = .next t →
      (∃ i, u.status.busy = true ∧ decode u.pending = .ok i ∧ exec i u = .next t)
        ∨ (u.status.busy = true ∧ t = u.illegalCommand) ∨ t = u := fun u h => by
    rcases engineStep_cases h with h | ⟨hb, -, h⟩ | ⟨-, h⟩
    · exact .inl h
    · exact .inr (.inl ⟨hb, h⟩)
    · exact .inr (.inr h)
  unfold step at h
  split at h <;> rename_i he
  · refine ⟨[], .inl he.symm, ?_⟩
    have hs : s.withEvents [] = s := by unfold State.withEvents; rw [← he]
    rw [hs]
    rcases engine _ h with h | h | h
    · exact .inl h
    · exact .inr (.inl h)
    · exact .inr (.inr (.inl h))
  · refine ⟨_, .inr ⟨_, he⟩, ?_⟩
    rcases engine _ h with h | h | h
    · exact .inl h
    · exact .inr (.inl h)
    · exact .inr (.inr (.inl h))
  · refine ⟨_, .inr ⟨_, he⟩, ?_⟩
    rename_i addr width es
    obtain ⟨a, ha⟩ := hostRead_eq (s.withEvents es) addr width
    exact .inr (.inr (.inr (.inl ⟨a, by rw [← ha]; simpa using h.symm⟩)))
  · refine ⟨_, .inr ⟨_, he⟩, ?_⟩
    rename_i addr width value es
    rcases hostWrite_cases (s.withEvents es) addr width value with ⟨u, hu, hw⟩ | hw
    · exact .inr (.inr (.inr (.inr (.inl ⟨addr, width, value, u, hu, by rw [← hw]; simpa using h.symm⟩))))
    · exact .inr (.inr (.inr (.inl ⟨_, by rw [← hw]; simpa using h.symm⟩)))
  · exact ⟨_, .inr ⟨_, he⟩, .inr (.inr (.inr (.inr (.inr ⟨⟨_, he⟩, by simpa using h.symm⟩))))⟩

/-! ### The canonical form through the loops -/

theorem clearTemplates_wf (n len : Nat) (tpl : Templates) (h : TemplatesWf tpl) :
    TemplatesWf (clearTemplates n len tpl) := by
  unfold clearTemplates
  generalize List.range n = l
  induction l generalizing tpl with
  | nil => exact h
  | cons k l ih =>
    refine ih _ (templatesWf_setIfInBounds _ _ _ h (Memory.writeList_wf _ _ ?_))
    by_cases hk : k < 8
    · simpa [hk] using h ⟨k, hk⟩
    · simp [hk]

/-- A fold of template writes keeps the canonical form. -/
theorem foldl_templatesWf {β : Type} (f : State → β → State) (hf : ∀ s b, TemplatesWf s.tpl → TemplatesWf (f s b).tpl)
    (l : List β) (s : State) (h : TemplatesWf s.tpl) : TemplatesWf (l.foldl f s).tpl := by
  induction l generalizing s with
  | nil => exact h
  | cons b l ih => exact ih _ (hf _ _ h)

theorem fiPaint_wf (k : Nat) (s : State) (h : TemplatesWf s.tpl) : TemplatesWf (fiPaint k s).tpl :=
  foldl_templatesWf _ (fun t _ ht => State.setTplPixel_wf _ _ _ _ _ (t.setTplPixel_wf _ _ _ _ ht)) _ _ h

theorem mkApply_wf (m k : Nat) (s : State) (h : TemplatesWf s.tpl) : TemplatesWf (mkApply m k s).tpl :=
  foldl_templatesWf _ (fun t _ ht => by
    split
    · exact t.setTplPixel_wf _ _ _ _ ht
    · exact ht) _ _ h

theorem sweepLoop_wf (s : State) (visits : List (Nat × Nat)) (grid : Memory Cell) (p : Nat) (h : Memory.wf grid)
    {grid' : Memory Cell} {p' : Nat} (he : sweepLoop s visits grid p = some (grid', p')) : Memory.wf grid' := by
  induction visits generalizing grid p with
  | nil => simp only [sweepLoop, Option.some.injEq, Prod.mk.injEq] at he; rw [← he.1]; exact h
  | cons v visits ih =>
    obtain ⟨r, c⟩ := v
    simp only [sweepLoop] at he
    split at he
    · split at he
      · cases he
      · exact ih _ _ (Memory.set_wf _ _ _ h) he
    · exact ih _ _ h he

theorem placeBits_wf (s : State) (h : Memory.wf s.work) : Memory.wf (placeBits s).work := by
  have key : ∀ (l : List (Nat × Nat)) (u : State), Memory.wf u.work → Memory.wf (l.foldl (fun t p =>
      if Role.carriesBit (s.cell p.1 p.2).role then
        t.xorWorkPixel p.1 p.2 (streamBit s.cwByte (s.cell p.1 p.2).off.toNat)
      else t) u).work := by
    intro l
    induction l with
    | nil => exact fun u h => h
    | cons p l ih =>
      intro u h
      refine ih _ ?_
      dsimp only
      split
      · exact setPixel_wf _ _ _ _ _ _ h
      · exact h
  exact key _ _ h

theorem searchTurn_wf (acc : State × Option Nat) (k : Nat) (hc : Memory.wf acc.1.cand) (ho : Memory.wf acc.1.out) :
    Memory.wf (searchTurn acc k).1.cand ∧ Memory.wf (searchTurn acc k).1.out := by
  have hc' : Memory.wf (Memory.writeList acc.1.cand
      ((List.range acc.1.bitmapLen).map fun j => acc.1.workByte j ^^^ acc.1.tplByte k j)) := Memory.writeList_wf _ _ hc
  unfold searchTurn
  dsimp only
  split
  · exact ⟨hc', Memory.writeList_wf _ _ ho⟩
  · split
    · exact ⟨hc', Memory.writeList_wf _ _ ho⟩
    · exact ⟨hc', ho⟩

end Sys2Proof.Machine
end

