-- ==== Sys2Proof/Laws/Layout.lean ====
section
/-! SUPPORT. When the planning commands complete: the alignment loop ends, the interleaved sequence has its length, the sweep
consumes one entry per free cell, and so the composites run through. -/

namespace Sys2Proof.Machine

/-! ### The grid planner -/

/-- The alignment loop ends for a record that meets rule R41. -/
theorem alignCoords_isSome (e : CapEntry) (side : Nat) (h : alignSound e) : ∃ coords, alignCoords e side = some coords := by
  have key : ∀ fuel a, 5 ≤ a → side ≤ fuel + a → 1 ≤ fuel → ∃ coords, alignLoop e side fuel a = some coords := by
    intro fuel
    induction fuel with
    | zero => omega
    | succ f ih =>
      intro a ha hs _
      simp only [alignLoop]
      split
      · rename_i hlt
        rw [if_neg (by omega)]
        have := h.2
        obtain ⟨c, hc⟩ := ih (a + e.astride.toNat) (by omega) (by omega) (by omega)
        exact ⟨_, by rw [hc]; rfl⟩
      · exact ⟨_, rfl⟩
  unfold alignCoords
  simp only [alignLoop]
  split
  · have := h.1
    obtain ⟨c, hc⟩ := key side e.apos.toNat h.1 (by omega) (by omega)
    simp only [↓reduceIte]
    exact ⟨_, by rw [hc]; rfl⟩
  · exact ⟨_, rfl⟩

theorem gpAlign_isDone {s : State} (h : alignSound s.capEntry) : ∃ t, gpAlign s = .done t := by
  obtain ⟨coords, hc⟩ := alignCoords_isSome s.capEntry s.side h
  exact ⟨_, by unfold gpAlign; rw [hc]⟩

theorem gpAll_isDone {s : State} (n : Nat) (h : alignSound (capRecord s.config s.cfg.version.toNat)) :
    ∃ t, gpAll n s = .done t := by
  have hf : SameButGridStep (gpInit n s) (gpFinder (gpTiming (gpInit n s))) :=
    (gridStep_sameButGridStep _ _ _).trans (gridStep_sameButGridStep _ _ _)
  obtain ⟨t, ht⟩ := gpAlign_isDone (s := gpFinder (gpTiming (gpInit n s))) (by
    have : (gpFinder (gpTiming (gpInit n s))).capEntry = capRecord s.config s.cfg.version.toNat := by rw [hf]; rfl
    rw [this]; exact h)
  exact ⟨_, by unfold gpAll; rw [ht]; rfl⟩

/-- `GRID` after a list of paints. -/
theorem State.paintAll_grid (s : State) (ps : List Paint) :
    (s.paintAll ps).grid =
      ps.foldl (fun g p => Memory.set g (cellIndex p.r p.c) ⟨p.role, .ofNat 15 p.off⟩) s.grid := by
  unfold State.paintAll
  induction ps generalizing s with
  | nil => rfl
  | cons p ps ih => rw [List.foldl_cons, List.foldl_cons, ih, State.paint_grid]

/-- The paints of `GP.TIMING` to `GP.DARK`, in order. -/
def allPaints (side version : Nat) (vpat : BitVec 18) (coords : List Nat) : List Paint :=
  timingPaints side ++ finderPaints side ++ alignPaints side coords ++ verinfoPaints side version vpat
    ++ fmtrsvPaints side ++ darkPaints side

/-- `GRID` after `GP.ALL n`: it does not depend on `n`. -/
theorem gpAll_grid {n : Nat} {s t : State} (h : gpAll n s = .done t) :
    ∃ coords, alignCoords (capRecord s.config s.cfg.version.toNat) (17 + 4 * s.cfg.version.toNat) = some coords
      ∧ t.grid = (allPaints (17 + 4 * s.cfg.version.toNat) s.cfg.version.toNat
          (capRecord s.config s.cfg.version.toNat).vpat coords).foldl
        (fun g p => Memory.set g (cellIndex p.r p.c) ⟨p.role, .ofNat 15 p.off⟩)
        (clearGrid (17 + 4 * s.cfg.version.toNat) s.grid) := by
  have hside : (gpInit n s).side = 17 + 4 * s.cfg.version.toNat := by
    simp only [gpInit, State.side, BitVec.toNat_ofNat]
    omega
  obtain ⟨u, hu, rfl⟩ := gpAll_done h
  obtain ⟨coords, hc, rfl⟩ := gpAlign_done hu
  have key : ∀ {a b : State}, SameButGridStep a b → b.side = a.side ∧ b.capEntry = a.capEntry
      ∧ b.plan = a.plan := fun h => by rw [h]; exact ⟨rfl, rfl, rfl⟩
  have k1 := key (gridStep_sameButGridStep (timingPaints (gpInit n s).side) 1 (gpInit n s))
  have k2 := key (gridStep_sameButGridStep (finderPaints (gpTiming (gpInit n s)).side) 2 (gpTiming (gpInit n s)))
  have e2 : (gpFinder (gpTiming (gpInit n s))).side = 17 + 4 * s.cfg.version.toNat := k2.1.trans (k1.1.trans hside)
  have c2 : (gpFinder (gpTiming (gpInit n s))).capEntry = capRecord s.config s.cfg.version.toNat := k2.2.1.trans k1.2.1
  have p2 : (gpFinder (gpTiming (gpInit n s))).plan = (gpInit n s).plan := k2.2.2.trans k1.2.2
  rw [e2, c2] at hc
  refine ⟨coords, hc, ?_⟩
  have g : ∀ (ps : List Paint) (k : Fin 7) (a : State), (gridStep ps k a).grid =
      ps.foldl (fun g p => Memory.set g (cellIndex p.r p.c) ⟨p.role, .ofNat 15 p.off⟩) a.grid :=
    fun ps k a => a.paintAll_grid ps
  have k3 := key (gridStep_sameButGridStep (alignPaints (gpFinder (gpTiming (gpInit n s))).side coords) 3
    (gpFinder (gpTiming (gpInit n s))))
  generalize hw : gridStep (alignPaints (gpFinder (gpTiming (gpInit n s))).side coords) 3
    (gpFinder (gpTiming (gpInit n s))) = w at k3
  have k4 := key (gridStep_sameButGridStep (verinfoPaints w.side w.plan.plancfg.version.toNat w.capEntry.vpat) 4 w)
  have k5 := key (gridStep_sameButGridStep (fmtrsvPaints (gpVerinfo w).side) 5 (gpVerinfo w))
  have e3 := k3.1.trans e2
  have e4 : (gpVerinfo w).side = _ := k4.1.trans e3
  have e5 : (gpFmtrsv (gpVerinfo w)).side = _ := k5.1.trans e4
  have v3 : w.plan.plancfg.version = s.cfg.version := by rw [k3.2.2, p2]; rfl
  unfold allPaints
  simp only [List.foldl_append]
  unfold gpDark
  rw [g, e5]
  unfold gpFmtrsv
  rw [g, e4]
  unfold gpVerinfo
  rw [g, e3, k3.2.1, c2, v3, ← hw, g, e2]
  unfold gpFinder
  rw [g]
  unfold gpTiming
  rw [g, (key (gridStep_sameButGridStep (timingPaints (gpInit n s).side) 1 (gpInit n s))).1, hside]
  rfl

/-- No step of the grid planner paints a cell Unassigned. -/
theorem allPaints_role (side version : Nat) (vpat : BitVec 18) (coords : List Nat) :
    ∀ p ∈ allPaints side version vpat coords, p.role ≠ .unassigned := by
  intro p hp
  simp only [allPaints, List.mem_append] at hp
  rcases hp with ((((h | h) | h) | h) | h) | h
  · simp only [timingPaints, List.mem_flatMap, List.mem_cons, List.not_mem_nil, or_false] at h
    obtain ⟨_, -, rfl | rfl⟩ := h <;> exact nofun
  · simp only [finderPaints, finderBox, List.mem_append, List.mem_flatMap, List.mem_filterMap, Option.ite_none_right_eq_some,
      Option.some.injEq] at h
    obtain (⟨_, -, _, -, -, rfl⟩ | ⟨_, -, _, -, -, rfl⟩) | ⟨_, -, _, -, -, rfl⟩ := h <;> exact nofun
  · simp only [alignPaints, List.mem_flatMap] at h
    obtain ⟨_, -, _, -, h⟩ := h
    split at h
    · cases h
    · simp only [alignBox, List.mem_flatMap, List.mem_map] at h
      obtain ⟨_, -, _, -, rfl⟩ := h
      exact nofun
  · unfold verinfoPaints at h
    split at h
    · simp only [List.mem_flatMap, List.mem_cons, List.not_mem_nil, or_false] at h
      obtain ⟨_, -, rfl | rfl⟩ := h <;> exact nofun
    · cases h
  · simp only [fmtrsvPaints, List.mem_flatMap, List.mem_cons, List.not_mem_nil, or_false] at h
    obtain ⟨_, -, rfl | rfl⟩ := h <;> exact nofun
  · simp only [darkPaints, List.mem_cons, List.not_mem_nil, or_false] at h
    subst h
    exact nofun

/-- A location after a list of paints: what it held where none hits it, the role of one of them otherwise. -/
theorem get?_foldl_paint (ps : List Paint) (g : Memory Cell) (i : Nat) (x : Cell) (hg : Memory.get? g i = some x) :
    ∃ y, Memory.get? (ps.foldl (fun g p => Memory.set g (cellIndex p.r p.c) ⟨p.role, .ofNat 15 p.off⟩) g) i = some y
      ∧ ((∀ p ∈ ps, cellIndex p.r p.c ≠ i) → y = x)
      ∧ ((∃ p ∈ ps, cellIndex p.r p.c = i) → ∃ p ∈ ps, y.role = p.role) := by
  induction ps generalizing g x with
  | nil => exact ⟨x, hg, fun _ => rfl, fun ⟨_, h, _⟩ => by cases h⟩
  | cons p ps ih =>
    rw [List.foldl_cons]
    by_cases hp : cellIndex p.r p.c = i
    · obtain ⟨y, hy, h1, h2⟩ := ih (Memory.set g (cellIndex p.r p.c) ⟨p.role, .ofNat 15 p.off⟩) ⟨p.role, .ofNat 15 p.off⟩
        (by rw [← hp]; exact Memory.get?_set_self ..)
      refine ⟨y, hy, fun h => absurd hp (h p (by simp)), fun _ => ?_⟩
      by_cases hq : ∃ q ∈ ps, cellIndex q.r q.c = i
      · obtain ⟨q, hq, e⟩ := h2 hq
        exact ⟨q, by simp [hq], e⟩
      · exact ⟨p, by simp, by rw [h1 fun q hm he => hq ⟨q, hm, he⟩]⟩
    · obtain ⟨y, hy, h1, h2⟩ := ih (Memory.set g (cellIndex p.r p.c) ⟨p.role, .ofNat 15 p.off⟩) x
        (by rw [Memory.get?_set_of_ne _ _ hp]; exact hg)
      refine ⟨y, hy, fun h => h1 fun q hq => h q (by simp [hq]), ?_⟩
      rintro ⟨q, hq, he⟩
      obtain rfl | hq := List.mem_cons.mp hq
      · exact absurd he hp
      · obtain ⟨q', hq', e⟩ := h2 ⟨q, hq, he⟩
        exact ⟨q', by simp [hq'], e⟩

/-- Which cells `GP.ALL n` leaves unassigned: those no paint hits. -/
theorem gpAll_unassigned {n : Nat} {s t : State} (h : gpAll n s = .done t) (hv : s.cfg.version.toNat ≤ 40) :
    ∃ coords, alignCoords (capRecord s.config s.cfg.version.toNat) (17 + 4 * s.cfg.version.toNat) = some coords
      ∧ ∀ r c, r < 17 + 4 * s.cfg.version.toNat → c < 17 + 4 * s.cfg.version.toNat →
        ((t.cell r c).role = .unassigned ↔
          ∀ p ∈ allPaints (17 + 4 * s.cfg.version.toNat) s.cfg.version.toNat
            (capRecord s.config s.cfg.version.toNat).vpat coords, cellIndex p.r p.c ≠ cellIndex r c) := by
  obtain ⟨coords, hc, hg⟩ := gpAll_grid h
  refine ⟨coords, hc, fun r c hr hcc => ?_⟩
  obtain ⟨y, hy, h1, h2⟩ := get?_foldl_paint (allPaints (17 + 4 * s.cfg.version.toNat) s.cfg.version.toNat
    (capRecord s.config s.cfg.version.toNat).vpat coords) (clearGrid (17 + 4 * s.cfg.version.toNat) s.grid) (cellIndex r c)
    Cell.blank (by rw [get?_clearGrid _ _ _ _ (by omega) (by omega), if_pos ⟨hr, hcc⟩])
  have : t.cell r c = y := by
    unfold State.cell
    rw [hg, hy]; rfl
  rw [this]
  refine ⟨fun hu p hp he => ?_, fun hn => by rw [h1 hn]; rfl⟩
  obtain ⟨q, hq, e⟩ := h2 ⟨p, hp, he⟩
  exact allPaints_role _ _ _ _ q hq (e ▸ hu)

/-! ### The block layout -/

/-- `BL.PARAM` completes for a sound Level tuple, with registers that agree with `CAP` and with one another. -/
theorem blParam_isDone {s : State} (hl : s.cfg.level.toNat ≤ 3) (h : levelSound s.capEntry s.cfg.level.toNat) :
    ∃ t, blParam s = .done t ∧ BlockShape t
      ∧ t.plan.nb.toNat = (levelTuple s.capEntry s.cfg.level.toNat).nb.toNat
      ∧ t.plan.ne.toNat = (levelTuple s.capEntry s.cfg.level.toNat).ne.toNat := by
  obtain ⟨h1, h2⟩ := h
  simp only [blParam]
  rw [if_neg (by omega)]
  refine ⟨_, rfl, ?_⟩
  generalize hnb : (levelTuple s.capEntry s.cfg.level.toNat).nb.toNat = nb at *
  generalize hne : (levelTuple s.capEntry s.cfg.level.toNat).ne.toNat = ne at *
  have hb : s.capEntry.bytes.toNat < 4096 := s.capEntry.bytes.isLt
  have hnb' : nb < 256 := hnb ▸ (levelTuple s.capEntry s.cfg.level.toNat).nb.isLt
  have hne' : ne < 256 := hne ▸ (levelTuple s.capEntry s.cfg.level.toNat).ne.isLt
  have n1 : (BitVec.ofNat 32 nb).toNat = nb := by simp; omega
  have n2 : (BitVec.ofNat 32 ne).toNat = ne := by simp; omega
  have n3 : (BitVec.ofNat 32 (s.capEntry.bytes.toNat - ne * nb)).toNat = s.capEntry.bytes.toNat - ne * nb := by
    simp; omega
  have n4 : (BitVec.ofNat 32 (ne * nb)).toNat = ne * nb := by simp; omega
  have hd := Nat.div_le_self (s.capEntry.bytes.toNat - ne * nb) nb
  have hm := Nat.mod_lt (s.capEntry.bytes.toNat - ne * nb) h1
  have n5 : (BitVec.ofNat 32 ((s.capEntry.bytes.toNat - ne * nb) / nb)).toNat = (s.capEntry.bytes.toNat - ne * nb) / nb := by
    simp; omega
  have n6 : (BitVec.ofNat 32 ((s.capEntry.bytes.toNat - ne * nb) % nb)).toNat = (s.capEntry.bytes.toNat - ne * nb) % nb := by
    simp; omega
  refine ⟨⟨hl, ?_, ?_, ?_, ?_, ?_⟩, n1, n2⟩
  · rw [n1]; exact h1
  · show (BitVec.ofNat 32 _).toNat + (BitVec.ofNat 32 _).toNat = s.capEntry.bytes.toNat
    rw [n3, n4]; omega
  · rw [n1, n2, n4, Nat.mul_comm]
  · rw [n1, n5, n6, n3]; exact Nat.div_add_mod _ _
  · rw [n1, n6]; exact hm

theorem length_flatMap_const {α β : Type} (l : List α) (f : α → List β) (n : Nat) (h : ∀ a ∈ l, (f a).length = n) :
    (l.flatMap f).length = n * l.length := by
  induction l with
  | nil => rfl
  | cons a l ih =>
    rw [List.flatMap_cons, List.length_append, h a (by simp), ih fun b hb => h b (by simp [hb]), List.length_cons]
    rw [Nat.mul_succ, Nat.add_comm]

@[simp] theorem length_byteEntries (role : Role) (i : Nat) : (byteEntries role i).length = 8 := rfl

/-- The number of blocks from `m` on. -/
theorem length_longBlocks (nb m : Nat) (f : Nat → List Cell) (hf : ∀ b, (f b).length = 8) :
    ((List.range nb).flatMap fun b => if m ≤ b then f b else []).length = 8 * (nb - m) := by
  induction nb with
  | zero => simp
  | succ n ih =>
    rw [List.range_succ, List.flatMap_append, List.length_append, ih]
    by_cases h : m ≤ n
    · simp [h, hf]; omega
    · simp [h]; omega

/-- `SEQ` has an entry for every bit of the stream, and seven more (rule R143). -/
theorem length_interleaved (p : PlanRegs) (hc : p.nb.toNat * p.ne.toNat = p.checkbytes.toNat)
    (hd : p.nb.toNat * p.nde.toNat + p.extra.toNat = p.databytes.toNat) (he : p.extra.toNat < p.nb.toNat) :
    (interleaved p).length = 8 * (p.databytes.toNat + p.checkbytes.toNat) + 7 := by
  have h1 : (dataEntries p).length = 8 * p.databytes.toNat := by
    unfold dataEntries
    rw [List.range_succ, List.flatMap_append, List.length_append,
      length_flatMap_const (n := 8 * p.nb.toNat) _ _ (fun i hi => by
        rw [length_flatMap_const (n := 8)]
        · simp
        · intro b _
          have : i < p.nde.toNat := by simpa using hi
          rw [if_pos (by unfold blockLen; split <;> omega)]
          rfl)]
    have : ∀ b, (p.nde.toNat < blockLen p b ↔ p.nb.toNat - p.extra.toNat ≤ b) := fun b => by
      unfold blockLen; split <;> omega
    simp only [List.flatMap_cons, List.flatMap_nil, List.append_nil, this, List.length_range]
    rw [length_longBlocks _ _ _ fun b => rfl, Nat.mul_assoc, ← hd]
    omega
  have h2 : (checkEntries p).length = 8 * p.checkbytes.toNat := by
    unfold checkEntries
    rw [length_flatMap_const (n := 8 * p.nb.toNat) _ _ (fun i _ => by
      rw [length_flatMap_const (n := 8)]
      · simp
      · intro b _; rfl), List.length_range, Nat.mul_assoc, hc]
  unfold interleaved extraEntries
  rw [List.length_append, List.length_append, h1, h2]
  simp
  omega

/-- A visit of the sweep finds a free cell in a grid. -/
def isFree (s : State) (grid : Memory Cell) (v : Nat × Nat) : Bool :=
  decide (({ s with grid := grid }.cell v.1 v.2).role = .unassigned)

/-- Writing one cell leaves the others free or not as they were. -/
theorem isFree_set {s : State} {grid : Memory Cell} {v : Nat × Nat} {i : Nat} (x : Cell) (h : i ≠ cellIndex v.1 v.2) :
    isFree s (Memory.set grid i x) v = isFree s grid v := by
  unfold isFree State.cell
  dsimp only
  rw [Memory.get?_set_of_ne _ _ h]

theorem freeCells_eq (s : State) : freeCells s = ((sweepOrder s.side).filter (isFree s s.grid)).length := rfl

/-- The sweep consumes one entry for every free cell among its visits, when there are enough entries. -/
theorem sweepLoop_isSome (s : State) (visits : List (Nat × Nat)) (grid : Memory Cell) (p : Nat)
    (hn : (visits.map fun v => cellIndex v.1 v.2).Nodup)
    (h : p + (visits.filter (isFree s grid)).length ≤ s.plan.seqlen.toNat) :
    ∃ g, sweepLoop s visits grid p = some (g, p + (visits.filter (isFree s grid)).length) := by
  induction visits generalizing grid p with
  | nil => exact ⟨grid, by simp [sweepLoop]⟩
  | cons v visits ih =>
    obtain ⟨r, c⟩ := v
    rw [List.map_cons, List.nodup_cons] at hn
    have hloop : sweepLoop s ((r, c) :: visits) grid p =
        if isFree s grid (r, c) = true then
          if p ≥ s.plan.seqlen.toNat then none
          else sweepLoop s visits (Memory.set grid (cellIndex r c) (s.entry p)) (p + 1)
        else sweepLoop s visits grid p := by
      simp only [sweepLoop, isFree, decide_eq_true_eq]
    rw [hloop]
    rw [List.filter_cons] at h ⊢
    by_cases hf : isFree s grid (r, c) = true
    · have hsame : ∀ x, visits.filter (isFree s (Memory.set grid (cellIndex r c) x)) = visits.filter (isFree s grid) :=
        fun x => List.filter_congr fun v hv => isFree_set x fun he => hn.1 (List.mem_map.mpr ⟨v, hv, he.symm⟩)
      simp only [if_pos hf, List.length_cons] at h ⊢
      simp only [show ¬ p ≥ s.plan.seqlen.toNat by omega, if_false]
      obtain ⟨g, hg⟩ := ih (Memory.set grid (cellIndex r c) (s.entry p)) (p + 1) hn.2 (by rw [hsame]; omega)
      exact ⟨g, by rw [hg, hsame]; congr 2; omega⟩
    · simp only [if_neg hf] at h ⊢
      exact ih grid p hn.2 h

/-- `BL.SWEEP` completes when the free cells can hold the stream and `SEQ` can fill them. -/
theorem blSweep_isDone {s : State} (hn : ((sweepOrder s.side).map fun v => cellIndex v.1 v.2).Nodup)
    (h1 : 8 * (s.plan.databytes.toNat + s.plan.checkbytes.toNat) ≤ freeCells s)
    (h2 : freeCells s ≤ s.plan.seqlen.toNat) : ∃ t, blSweep s = .done t ∧ t.plan.freecnt.toNat = freeCells s := by
  obtain ⟨g, hg⟩ := sweepLoop_isSome s (sweepOrder s.side) s.grid 0 hn (by rw [Nat.zero_add, ← freeCells_eq]; exact h2)
  unfold blSweep
  rw [hg, Nat.zero_add, ← freeCells_eq]
  dsimp only
  rw [if_neg (by omega)]
  refine ⟨_, rfl, ?_⟩
  have := s.plan.seqlen.isLt
  simp only [BitVec.toNat_ofNat]
  omega

/-- `BL.ALL` completes when the free cells of the grid hold the stream of the record (rule R41). -/
theorem blAll_isDone {s : State} (hl : s.cfg.level.toNat ≤ 3) (h : levelSound s.capEntry s.cfg.level.toNat)
    (hn : ((sweepOrder s.side).map fun v => cellIndex v.1 v.2).Nodup)
    (h1 : 8 * s.capEntry.bytes.toNat ≤ freeCells s) (h2 : freeCells s ≤ 8 * s.capEntry.bytes.toNat + 7) :
    ∃ t, blAll s = .done t := by
  obtain ⟨u, hu, hb, -⟩ := blParam_isDone hl h
  have hf := (blParam_done hu).2
  have hlen := length_interleaved u.plan hb.check_eq hb.data_eq hb.extra_lt
  have hcap : u.capEntry = s.capEntry := by rw [hf]; rfl
  have hbytes := s.capEntry.bytes.isLt
  have htot := hb.total_eq
  rw [hcap] at htot
  have hseq : (blIlv u).plan.seqlen.toNat = 8 * s.capEntry.bytes.toNat + 7 := by
    show (BitVec.ofNat 32 (interleaved u.plan).length).toNat = _
    rw [hlen, htot]
    simp
    omega
  have hside : (blIlv u).side = s.side := by rw [hf]; rfl
  have hfree : freeCells (blIlv u) = freeCells s := by rw [hf]; rfl
  obtain ⟨t, ht, -⟩ := blSweep_isDone (s := blIlv u) (by rw [hside]; exact hn)
    (by rw [hfree]; show 8 * (u.plan.databytes.toNat + u.plan.checkbytes.toNat) ≤ _; rw [htot]; exact h1)
    (by rw [hfree, hseq]; exact h2)
  exact ⟨t, by unfold blAll; rw [hu]; exact ht⟩

/-! ### The plan -/

/-- `PL.PLAN` completes when `BL.ALL` does on the grid `GP.ALL` draws. -/
theorem plPlan_isDone {s g : State} (hg : gpAll (if 0 ≤ requestedMask s then 1 else 8) s = .done g)
    (hb : ∃ u, blAll g = .done u) : ∃ t, plPlan s = .done t := by
  obtain ⟨u, hu⟩ := hb
  unfold plPlan
  dsimp only
  rw [hg, Effect.andThen_done, hu]
  exact ⟨_, rfl⟩

/-! ### Reading a memory in canonical form -/

/-- The value of the `i`-th pair is what a read of its index gives. -/
theorem Memory.get?_getElem {α : Type} (m : Memory α) (h : Memory.wf m) (i : Nat) (hi : i < m.length) :
    Memory.get? m m[i].1 = some m[i].2 := by
  induction m generalizing i with
  | nil => simp at hi
  | cons p m ih =>
    obtain ⟨k, v⟩ := p
    rw [Memory.wf_cons] at h
    cases i with
    | zero => simp [Memory.get?_cons]
    | succ i =>
      have hi' : i < m.length := by simpa using hi
      have : k < m[i].1 := h.1 _ (List.getElem_mem hi')
      simp only [List.getElem_cons_succ, Memory.get?_cons]
      rw [if_neg (by omega), ih h.2 i hi']

end Sys2Proof.Machine
end

