-- ==== Sys2Proof/Laws/PerInstr.lean ====
section
/-! SUPPORT. Per-instruction law `TableRow`: the word of every well-formed command matches its row of
`spec/opcode_table.json` (rules R100, R102, R110). -/

namespace Sys2Proof.Laws.TableRow

/-- The mask and the match of each command's row of `spec/opcode_table.json`. -/
def row : Instr → Word × Word
  | .nop => (0xFFFFFFFF, 0x00000000)
  | .reset => (0xFFFFFFFF, 0x00000001)
  | .gpInit _ => (0xFFFFF0FF, 0x00000010)
  | .gpTiming => (0xFFFFFFFF, 0x00000011)
  | .gpFinder => (0xFFFFFFFF, 0x00000012)
  | .gpAlign => (0xFFFFFFFF, 0x00000013)
  | .gpVerinfo => (0xFFFFFFFF, 0x00000014)
  | .gpFmtrsv => (0xFFFFFFFF, 0x00000015)
  | .gpDark => (0xFFFFFFFF, 0x00000016)
  | .gpAll _ => (0xFFFFF0FF, 0x00000017)
  | .blParam => (0xFFFFFFFF, 0x00000020)
  | .blIlv => (0xFFFFFFFF, 0x00000021)
  | .blSweep => (0xFFFFFFFF, 0x00000022)
  | .blAll => (0xFFFFFFFF, 0x00000023)
  | .fiEnc _ => (0xFFFFF0FF, 0x00000030)
  | .fiPaint _ => (0xFFFFF0FF, 0x00000031)
  | .fiPlan _ _ => (0xFFFF00FF, 0x00000032)
  | .mkApply _ _ => (0xFFFF00FF, 0x00000040)
  | .psRun _ => (0xFFFFF0FF, 0x00000050)
  | .psBox _ => (0xFFFFF0FF, 0x00000051)
  | .psFind _ => (0xFFFFF0FF, 0x00000052)
  | .psBal _ => (0xFFFFF0FF, 0x00000053)
  | .psScore _ => (0xFFFFF0FF, 0x00000054)
  | .enPlace => (0xFFFFFFFF, 0x00000060)
  | .enCand _ => (0xFFFFF0FF, 0x00000061)
  | .enKeep => (0xFFFFFFFF, 0x00000062)
  | .enSelect => (0xFFFFFFFF, 0x00000063)
  | .enEncode => (0xFFFFFFFF, 0x00000064)
  | .plPlan => (0xFFFFFFFF, 0x00000070)

/-- The word of the command has the row's fixed bits. -/
@[reducible] def Statement (i : Instr) : Prop := i.wellFormed = true → encode i &&& (row i).1 = (row i).2

theorem of_one (f : Nat → Instr) (wf : ∀ n, (f n).wellFormed = true → n < 16) (h : ∀ n : Fin 16, Statement (f n))
    (n : Nat) : Statement (f n) := fun hw => h ⟨n, wf n hw⟩ hw

theorem of_two (f : Nat → Nat → Instr) (wf : ∀ m k, (f m k).wellFormed = true → m < 16 ∧ k < 16)
    (h : ∀ m k : Fin 16, Statement (f m k)) (m k : Nat) : Statement (f m k) :=
  fun hw => h ⟨m, (wf m k hw).1⟩ ⟨k, (wf m k hw).2⟩ hw

theorem nop : Statement .nop := by decide
theorem reset : Statement .reset := by decide
theorem gpInit (n : Nat) : Statement (.gpInit n) := of_one .gpInit (fun _ h => of_decide_eq_true h) (by decide) n
theorem gpTiming : Statement .gpTiming := by decide
theorem gpFinder : Statement .gpFinder := by decide
theorem gpAlign : Statement .gpAlign := by decide
theorem gpVerinfo : Statement .gpVerinfo := by decide
theorem gpFmtrsv : Statement .gpFmtrsv := by decide
theorem gpDark : Statement .gpDark := by decide
theorem gpAll (n : Nat) : Statement (.gpAll n) := of_one .gpAll (fun _ h => of_decide_eq_true h) (by decide) n
theorem blParam : Statement .blParam := by decide
theorem blIlv : Statement .blIlv := by decide
theorem blSweep : Statement .blSweep := by decide
theorem blAll : Statement .blAll := by decide
theorem fiEnc (m : Nat) : Statement (.fiEnc m) := of_one .fiEnc (fun _ h => of_decide_eq_true h) (by decide) m
theorem fiPaint (k : Nat) : Statement (.fiPaint k) := of_one .fiPaint (fun _ h => of_decide_eq_true h) (by decide) k
theorem fiPlan (m k : Nat) : Statement (.fiPlan m k) :=
  of_two .fiPlan (fun _ _ h => by simpa [Instr.wellFormed, operandFits] using h) (by decide) m k
theorem mkApply (m k : Nat) : Statement (.mkApply m k) :=
  of_two .mkApply (fun _ _ h => by simpa [Instr.wellFormed, operandFits] using h) (by decide) m k
theorem psRun (src : Nat) : Statement (.psRun src) := of_one .psRun (fun _ h => of_decide_eq_true h) (by decide) src
theorem psBox (src : Nat) : Statement (.psBox src) := of_one .psBox (fun _ h => of_decide_eq_true h) (by decide) src
theorem psFind (src : Nat) : Statement (.psFind src) := of_one .psFind (fun _ h => of_decide_eq_true h) (by decide) src
theorem psBal (src : Nat) : Statement (.psBal src) := of_one .psBal (fun _ h => of_decide_eq_true h) (by decide) src
theorem psScore (src : Nat) : Statement (.psScore src) := of_one .psScore (fun _ h => of_decide_eq_true h) (by decide) src
theorem enPlace : Statement .enPlace := by decide
theorem enCand (k : Nat) : Statement (.enCand k) := of_one .enCand (fun _ h => of_decide_eq_true h) (by decide) k
theorem enKeep : Statement .enKeep := by decide
theorem enSelect : Statement .enSelect := by decide
theorem enEncode : Statement .enEncode := by decide
theorem plPlan : Statement .plPlan := by decide

end Sys2Proof.Laws.TableRow
end

