-- ==== Sys2Proof/Tests/Slice0.lean ====
section
/-! SUPPORT. The model's own tests: ill-formed commands refused, the command words of the spec decoded, one step of each
command against a vector of `95_test_vectors.md` or a hand calculation from its rule, and for every statement that has
hypotheses a concrete state and operands that meet them.

Expected values come from the spec: `V<n>` and `X<n>` name its vectors; "by hand" means from the rule named. -/

namespace Sys2Proof.Tests

open Sys2Proof.Machine Sys2Proof.Claims

set_option maxRecDepth 100000

/-! ### Ill-formed commands -/

theorem test_wf_one_operand :
    (Instr.gpInit 16).wellFormed = false ∧ (Instr.gpAll 16).wellFormed = false ∧ (Instr.fiEnc 16).wellFormed = false
    ∧ (Instr.fiPaint 16).wellFormed = false ∧ (Instr.psRun 16).wellFormed = false ∧ (Instr.psBox 16).wellFormed = false
    ∧ (Instr.psFind 16).wellFormed = false ∧ (Instr.psBal 16).wellFormed = false
    ∧ (Instr.psScore 16).wellFormed = false ∧ (Instr.enCand 16).wellFormed = false := by decide

theorem test_wf_two_operands :
    (Instr.fiPlan 16 0).wellFormed = false ∧ (Instr.fiPlan 0 16).wellFormed = false
    ∧ (Instr.mkApply 16 0).wellFormed = false ∧ (Instr.mkApply 0 16).wellFormed = false := by decide

/-- An operand the engine will reject still has a word (rules R101, R105). -/
theorem test_wf_illegal_operand_has_a_word :
    (Instr.gpInit 2).wellFormed = true ∧ (Instr.fiPlan 8 9).wellFormed = true ∧ (Instr.psScore 15).wellFormed = true := by
  decide

/-! ### Command words (vector V20; the fields of rule R100 written out as `z`, `b`, `a`, `op`) -/

theorem test_decode_nop : decode 0x00000000 = .ok .nop := by decide
theorem test_decode_reset : decode 0b0000000000000000_0000_0000_00000001 = .ok .reset := by decide
theorem test_decode_gpInit :
    decode 0b0000000000000000_0000_0001_00010000 = .ok (.gpInit 1) ∧ decode 0x00000810 = .ok (.gpInit 8) := by decide
theorem test_decode_gpTiming : decode 0x00000011 = .ok .gpTiming := by decide
theorem test_decode_gpFinder : decode 0x00000012 = .ok .gpFinder := by decide
theorem test_decode_gpAlign : decode 0x00000013 = .ok .gpAlign := by decide
theorem test_decode_gpVerinfo : decode 0x00000014 = .ok .gpVerinfo := by decide
theorem test_decode_gpFmtrsv : decode 0x00000015 = .ok .gpFmtrsv := by decide
theorem test_decode_gpDark : decode 0x00000016 = .ok .gpDark := by decide
theorem test_decode_gpAll : decode 0x00000817 = .ok (.gpAll 8) := by decide
theorem test_decode_blParam : decode 0x00000020 = .ok .blParam := by decide
theorem test_decode_blIlv : decode 0b0000000000000000_0000_0000_00100001 = .ok .blIlv := by decide
theorem test_decode_blSweep : decode 0x00000022 = .ok .blSweep := by decide
theorem test_decode_blAll : decode 0x00000023 = .ok .blAll := by decide
theorem test_decode_fiEnc : decode 0x00000330 = .ok (.fiEnc 3) := by decide
theorem test_decode_fiPaint : decode 0x00000731 = .ok (.fiPaint 7) := by decide
theorem test_decode_fiPlan :
    decode 0b0000000000000000_0000_0011_00110010 = .ok (.fiPlan 3 0) ∧ decode 0x00006632 = .ok (.fiPlan 6 6) := by decide
theorem test_decode_mkApply :
    decode 0b0000000000000000_0101_0101_01000000 = .ok (.mkApply 5 5) ∧ decode 0x00001340 = .ok (.mkApply 3 1) := by decide
theorem test_decode_psRun : decode 0x00000050 = .ok (.psRun 0) := by decide
theorem test_decode_psBox : decode 0x00000151 = .ok (.psBox 1) := by decide
theorem test_decode_psFind : decode 0b0000000000000000_0000_0010_01010010 = .ok (.psFind 2) := by decide
theorem test_decode_psBal : decode 0x00000153 = .ok (.psBal 1) := by decide
theorem test_decode_psScore : decode 0x00000054 = .ok (.psScore 0) := by decide
theorem test_decode_enPlace : decode 0x00000060 = .ok .enPlace := by decide
theorem test_decode_enCand : decode 0b0000000000000000_0000_0100_01100001 = .ok (.enCand 4) := by decide
theorem test_decode_enKeep : decode 0x00000062 = .ok .enKeep := by decide
theorem test_decode_enSelect : decode 0x00000063 = .ok .enSelect := by decide
theorem test_decode_enEncode : decode 0x00000064 = .ok .enEncode := by decide
theorem test_decode_plPlan : decode 0b0000000000000000_0000_0000_01110000 = .ok .plPlan := by decide

theorem test_decode_illegal :
    ([0x00000002, 0x000000FF, 0x00000018, 0x00000071, 0x00010000, 0x80000070, 0x00000100, 0x00000170, 0x00001030,
      0x00001154].map fun w => (decode (BitVec.ofNat 32 w)).toOption) = List.replicate 10 none := by decide

theorem test_decodeTableWord : decodeTableWord 32 0x00005540 = some (.mkApply 5 5) ∧ decodeTableWord 32 0x102 = none := by
  decide

/-- The word placed is the one the very next step runs (log entry 7): `RESET` ends with `STATUS = 0`. -/
theorem test_withFetchWord :
    (match step (State.reset.withFetchWord 32 0x00000000) with | .next t => some t.status | _ => none)
      = some Status.zero := by decide

/-! ### Small states -/

/-- The next state, when there is one. -/
def next : Host.Outcome State Fault Refusal → Option State
  | .next t => some t
  | .fault _ => none
  | .refused _ => none

theorem run_of {o : Host.Outcome State Fault Refusal} {p : State → Bool} (h : (next o).any p = true) :
    ∃ t, o = .next t ∧ p t = true := by
  cases o with
  | next t => exact ⟨t, rfl, h⟩
  | fault _ => cases h
  | refused _ => cases h

/-- The plan registers after `GP.INIT n` for version `v` (rules R26 to R28). -/
def planFor (v n : Nat) : PlanRegs :=
  { PlanRegs.zero with
    plancfg := ⟨.ofNat 8 v, 0, 0⟩
    side := .ofNat 32 (17 + 4 * v), stride := .ofNat 32 ((17 + 4 * v + 7) / 8), ncopy := .ofNat 32 n }

/-- A state with the plan registers of version `v`, `n` white templates, and the given flags. -/
def drawn (v n : Nat) (st : Status) : State :=
  { State.reset with
    status := st
    cfg := ⟨.ofNat 8 v, 0, 0⟩
    plan := planFor v n
    tpl := clearTemplates n ((17 + 4 * v + 7) / 8 * (17 + 4 * v)) Templates.empty }

/-- `GRID_INIT = 1` and `GPSTEP = k`. -/
def atGp (k : Fin 7) : Status := { Status.zero with gridInit := true, gpstep := k }

/-- The flags after `BL.PARAM`, `BL.ILV`, `BL.SWEEP` on a finished grid. -/
def laidOut : Status := { atGp 6 with paramOk := true, seqOk := true, layoutOk := true }

/-- A grid that lists every cell of side 21 with the given role and offset 0. -/
def gridOf (role : Nat → Nat → Role) : Memory Cell :=
  Memory.setMany [] ((coordinates 21).map fun p => (cellIndex p.1 p.2, ⟨role p.1 p.2, 0⟩))

/-- A bank that lists the given bytes. -/
def bytes (l : List Nat) : Memory Byte := Memory.enumerate 0 (l.map (BitVec.ofNat 8))

/-- A tiny grid of side 2: `(0,0)`, `(0,1)`, `(1,0)`, `(1,1)`. -/
def tiny (c00 c01 c10 c11 : Cell) (st : Status) : State :=
  { State.reset with
    status := st
    cfg := ⟨1, 0, 0⟩
    cwlen := 26
    plan := { planFor 1 1 with side := 2, stride := 1 }
    grid := [(0, c00), (1, c01), (256, c10), (257, c11)]
    tpl := clearTemplates 8 2 Templates.empty }

/-- A square bitmap of side 21 in `WORK`, white but for row 10. -/
def workRow10 (b0 b1 b2 : Nat) : State :=
  { drawn 1 1 { laidOut with workOk := true } with
    work := bytes (List.replicate 30 0 ++ [b0, b1, b2] ++ List.replicate 30 0) }

/-! ### One step of each command -/

/-- V4's columns `STATUS after` and `ERRCMD after`, for a command word issued in `s`. -/
def outcome (w : Word) (s : State) : Option (Nat × Nat) :=
  (next (engineStep (s.writeCmd w))).map fun t => (t.status.word.toNat, t.errcmd.toNat)

theorem test_nop_ends : outcome 0x00000000 (drawn 1 1 (atGp 6)) = some (0xD00, 0) := by decide
/-- V21: `Locked` by test 1, and the illegal word 0x101 passes it. -/
theorem test_nop_locked :
    let s := { State.reset with status := { Status.zero with fatal := true } }
    outcome 0x00000000 s = some (0x52, 0) ∧ outcome 0x000000FF s = some (0x52, 0xFF) ∧ outcome 0x101 s = some (0x22, 0x101) := by
  decide

/-- V21, V23: `RESET` while locked. -/
theorem test_reset_unlocks : outcome 0x00000001 { drawn 1 1 Status.zero.fatalLatched with errcmd := 5 } = some (0, 0) := by
  decide
/-- V23: `CAP[1]` words 0, 3 and 4, and a refused read of `OUT`. -/
theorem test_reset_reads :
    memRead State.reset 0x0820 4 = some 26 ∧ memRead State.reset 0x082C 4 = some 0x01010101
    ∧ memRead State.reset 0x0830 4 = some 0x110D0A07 ∧ memRead State.reset 0x2000 1 = none := by decide

/-- V4: versions 0 and 41, `n = 2`. -/
theorem test_gpInit_rejects :
    outcome 0x110 State.reset = some (0x10, 0x110)
    ∧ outcome 0x210 { State.reset with cfg := ⟨1, 0, 0⟩ } = some (0x10, 0x210)
    ∧ outcome 0x817 { State.reset with cfg := ⟨41, 0, 0⟩ } = some (0x10, 0x817) := by decide
/-- V1, R121: `SIDE`, `STRIDE`, and the last cell and byte cleared. -/
theorem test_gpInit_clears :
    (next (exec (.gpInit 1) { State.reset with cfg := ⟨1, 0, 0⟩ })).map (fun t =>
      (t.status.word.toNat, t.side, t.stride, cellWord (t.cell 20 20), t.tplByte 0 62)) = some (0x100, 21, 3, 0, 0) := by
  decide +kernel

/-- V22 and R122: the word of cell (6,8); row 6 has the even columns black, `10101010 10101010 10101000`. -/
theorem test_gpTiming_draws :
    (next (exec .gpTiming (drawn 1 1 (atGp 0)))).map (fun t =>
      (t.status.word.toNat, cellWord (t.cell 6 8), t.tplByte 0 18, t.tplByte 0 19, t.tplByte 0 20, t.tplByte 0 60))
      = some (0x300, 3, 0xAA, 0xAA, 0xA8, 0x02) := by decide
/-- V4: at reset, and after `GP.ALL`. -/
theorem test_gpTiming_badState :
    outcome 0x11 State.reset = some (0x30, 0x11) ∧ outcome 0x11 (drawn 1 1 (atGp 6)) = some (0xD30, 0x11) := by decide

/-- V1, rows 0 and 14; V22, the word of (0,0). -/
theorem test_gpFinder_draws :
    (next (exec .gpFinder (drawn 1 1 (atGp 1)))).map (fun t =>
      (cellWord (t.cell 0 0), t.tplByte 0 0, t.tplByte 0 1, t.tplByte 0 2, t.tplByte 0 42, t.tplByte 0 43))
      = some (1, 0xFE, 0x03, 0xF8, 0xFE, 0x00) := by decide +kernel
theorem test_gpFinder_badState : outcome 0x12 (drawn 1 1 (atGp 0)) = some (0x130, 0x12) := by decide

/-- V2, version 2: the one box at rows and columns 16..20, its rows `11111`, `10001`, `10101`. -/
theorem test_gpAlign_draws :
    (next (exec .gpAlign (drawn 2 1 (atGp 2)))).map (fun t =>
      (cellWord (t.cell 16 16), cellWord (t.cell 20 20), t.tplByte 0 66, t.tplByte 0 70, t.tplByte 0 74, t.tplByte 0 82))
      = some (2, 2, 0xF8, 0x88, 0xA8, 0xF8) := by decide
/-- R125: version 1 has no box. -/
theorem test_gpAlign_version_one :
    (next (exec .gpAlign (drawn 1 1 (atGp 2)))).map (fun t => (t.status.word.toNat, t.grid)) = some (0x700, []) := by decide

/-- V2, version 7: rows 34..36 of the bottom-left block, `000010`, `011110`, `100110`; row 4 of the top-right, `111`. -/
theorem test_gpVerinfo_draws :
    (next (exec .gpVerinfo (drawn 7 1 (atGp 3)))).map (fun t =>
      (t.tplByte 0 (34 * 6), t.tplByte 0 (35 * 6), t.tplByte 0 (36 * 6), t.tplPixel 0 4 34, t.tplPixel 0 4 36,
        cellWord (t.cell 34 0))) = some (0x08, 0x78, 0x98, true, true, 5) := by decide +kernel
/-- R127: below version 7 nothing is drawn. -/
theorem test_gpVerinfo_version_six :
    (next (exec .gpVerinfo (drawn 6 1 (atGp 3)))).map (fun t => (t.status.word.toNat, t.grid)) = some (0x900, []) := by decide

/-- V22 and V9: bit 0 at (8,20), bit 14 at (8,0) and (20,8). -/
theorem test_gpFmtrsv_reserves :
    (next (exec .gpFmtrsv (drawn 1 1 (atGp 4)))).map (fun t =>
      (cellWord (t.cell 8 20), cellWord (t.cell 8 0), cellWord (t.cell 20 8), cellWord (t.cell 14 8)))
      = some (0x04, 0xE4, 0xE4, 0x84) := by decide
theorem test_gpFmtrsv_badState : outcome 0x15 (drawn 1 1 (atGp 3)) = some (0x730, 0x15) := by decide

/-- V22 and V1: (13,8), row 13 byte 1. -/
theorem test_gpDark_draws :
    (next (exec .gpDark (drawn 1 1 (atGp 5)))).map (fun t => (t.status.word.toNat, cellWord (t.cell 13 8), t.tplByte 0 40))
      = some (0xD00, 6, 0x80) := by decide
theorem test_gpDark_badState : outcome 0x16 (drawn 1 1 (atGp 6)) = some (0xD30, 0x16) := by decide

/-- The version 1 grid with one template, as V1's start. -/
def gpAllOne : Option State := next (exec (.gpAll 1) { State.reset with cfg := ⟨1, 0, 0⟩ })

/-- V1: `STATUS`, rows 6 and 13 of `TPL[0]`, a Timing cell covered by the finder's border. -/
theorem test_gpAll_version_one :
    gpAllOne.map (fun t =>
      (t.status.word.toNat, t.tplByte 0 18, t.tplByte 0 19, t.tplByte 0 20, t.tplByte 0 40, cellWord (t.cell 6 7)))
      = some (0xD00, 0xFE, 0xAB, 0xF8, 0x80, 1) := by decide +kernel

/-- V5: version 5 level Q. -/
theorem test_blParam_version_five :
    (next (exec .blParam { drawn 5 1 (atGp 6) with cfg := ⟨5, 2, 0⟩ })).map (fun t =>
      [t.plan.nb, t.plan.ne, t.plan.nde, t.plan.extra, t.plan.databytes, t.plan.checkbytes].map (·.toNat))
      = some [4, 18, 15, 2, 62, 72] := by decide
/-- V7: `Fatal(TableDefect)` for a record with `nb = 0`, and level 4. -/
theorem test_blParam_stops :
    let s := { drawn 1 1 (atGp 6) with
      config := { referenceConfig with cap := referenceConfig.cap.set 0 { CapEntry.zero with bytes := 26 } } }
    ((next (engineStep (s.writeCmd 0x20))).map fun t => (t.status.word.toNat, t.fatalcode.code)) = some (0x62, 10)
    ∧ outcome 0x20 { drawn 1 1 (atGp 6) with cfg := ⟨1, 4, 0⟩ } = some (0xD10, 0x20) := by decide

/-- A plan of two blocks with one and two data bytes and one check byte each. -/
def twoBlocks : PlanRegs :=
  { planFor 1 1 with nb := 2, ne := 1, nde := 1, extra := 1, databytes := 3, checkbytes := 2 }

/-- By hand from R142 and R143: data bytes 0, 1, 2 (block 1 is the long one), check bytes 3, 4, then offset 40. -/
theorem test_blIlv_two_blocks :
    (next (exec .blIlv { drawn 1 1 { atGp 6 with paramOk := true } with plan := twoBlocks })).map (fun t =>
      (t.plan.seqlen.toNat, [0, 7, 8, 16, 24, 32, 40, 46].map fun i => (cellWord (t.entry i)).toNat))
      = some (47, [0x007, 0x077, 0x087, 0x107, 0x188, 0x208, 0x289, 0x2E9]) := by decide
theorem test_blIlv_badState : outcome 0x21 (drawn 1 1 (atGp 6)) = some (0xD30, 0x21) := by decide

/-- A tiny plan about to be swept: three free cells and `n` entries. -/
def aboutToSweep (n : Nat) : State :=
  let s := tiny Cell.blank Cell.blank ⟨.position, 0⟩ Cell.blank { atGp 6 with paramOk := true, seqOk := true }
  { s with plan := { s.plan with seqlen := .ofNat 32 n }, seq := [(0, ⟨.data, 0⟩), (1, ⟨.check, 1⟩), (2, ⟨.extra, 2⟩)] }

/-- By hand from R144 and R145: the visits are (1,1), (1,0), (0,1), (0,0). -/
theorem test_blSweep_tiny :
    (next (exec .blSweep (aboutToSweep 3))).map (fun t =>
      (t.plan.freecnt.toNat, [t.cell 1 1, t.cell 1 0, t.cell 0 1, t.cell 0 0].map fun x => (cellWord x).toNat))
      = some (3, [0x07, 0x01, 0x18, 0x29]) := by decide
/-- R145: a free cell finds no entry. -/
theorem test_blSweep_mismatch :
    ((next (engineStep ((aboutToSweep 2).writeCmd 0x22))).map fun t => (t.status.word.toNat, t.fatalcode.code))
      = some (0x62, 8) := by decide

/-- V7: after the layout, and R147's level check. -/
theorem test_blAll_rejects :
    outcome 0x23 { drawn 1 1 laidOut with cfg := ⟨1, 0, 0⟩ } = some (0x7D30, 0x23)
    ∧ outcome 0x23 { drawn 1 1 (atGp 6) with cfg := ⟨1, 4, 0⟩ } = some (0xD10, 0x23) := by decide

/-- X7 and V8: (M, 0) and (L, 7). -/
theorem test_fiEnc_words :
    (next (exec (.fiEnc 0) { drawn 1 1 { atGp 6 with paramOk := true } with
      plan := { planFor 1 1 with plancfg := ⟨1, 1, 0⟩ } })).map (fun t => t.plan.fmtword.toNat) = some 0x5412
    ∧ (next (exec (.fiEnc 7) (drawn 1 1 { atGp 6 with paramOk := true }))).map (fun t => t.plan.fmtword.toNat)
      = some 0x6976 := by decide
theorem test_fiEnc_rejects :
    outcome 0x830 (drawn 1 1 { atGp 6 with paramOk := true }) = some (0x1D10, 0x830)
    ∧ outcome 0x830 State.reset = some (0x30, 0x830) := by decide

/-- V9: row 8 after painting 0x77C4, `###.##.#` and `#` with the Timing cell white, then `##...#..`. -/
theorem test_fiPaint_row_eight :
    (next (exec (.fiPaint 0) { drawn 1 1 { atGp 6 with paramOk := true, fmtOk := true } with
      plan := { planFor 1 1 with fmtword := 0x77C4 } })).map (fun t => (t.tplByte 0 24, t.tplByte 0 25, t.tplByte 0 26))
      = some (0xED, 0x86, 0x20) := by decide
theorem test_fiPaint_badOperand :
    outcome 0x131 (drawn 1 1 { atGp 6 with paramOk := true, fmtOk := true }) = some (0x9D40, 0x131) := by decide

/-- V21: `FMTWORD` of (L, 3); test 3 before 4, 4 before 5. -/
theorem test_fiPlan_word :
    (next (exec (.fiPlan 3 0) (drawn 1 1 { atGp 6 with paramOk := true }))).map (fun t => t.plan.fmtword.toNat)
      = some 0x789D := by decide
theorem test_fiPlan_check_order :
    outcome 0x9832 State.reset = some (0x30, 0x9832)
    ∧ outcome 0x1832 (drawn 1 1 { atGp 6 with paramOk := true }) = some (0x1D10, 0x1832)
    ∧ outcome 0x1332 (drawn 1 1 { atGp 6 with paramOk := true }) = some (0x1D40, 0x1332) := by decide

/-- By hand from R166: mask 0 holds at (0,0) and (1,1), here Data and Extra; the Position cell (0,1) is not flipped by
mask 1. -/
theorem test_mkApply_tiny :
    let s := tiny ⟨.data, 0⟩ ⟨.position, 0⟩ ⟨.check, 1⟩ ⟨.extra, 2⟩ laidOut
    ((next (exec (.mkApply 0 0) s)).map fun t => (t.tplByte 0 0, t.tplByte 0 1)) = some (0x80, 0x40)
    ∧ ((next (exec (.mkApply 1 0) s)).map fun t => (t.tplByte 0 0, t.tplByte 0 1)) = some (0x80, 0x00) := by decide
/-- The three errors printed after V11. -/
theorem test_mkApply_rejects :
    outcome 0x1340 (drawn 1 1 laidOut) = some (0x7D40, 0x1340) ∧ outcome 0x1840 (drawn 1 1 laidOut) = some (0x7D10, 0x1840)
    ∧ outcome 0x1840 State.reset = some (0x30, 0x1840) := by decide

/-- V13, the run terms of seven lines. -/
theorem test_psRun_lines :
    [[false, true, true, true, true, true, true, false], [false, true, true, true, true, true, false],
      [false, true, true, true, true, false], [true, true, true, true, true], [true, true, true, true],
      List.replicate 5 false ++ List.replicate 5 true ++ List.replicate 5 false, List.replicate 21 false].map lineRun
      = [4, 3, 0, 3, 0, 9, 19] := by decide
/-- V14: row 10 = `1011101` at columns 7..13. -/
theorem test_psRun_bitmap :
    (next (exec (.psRun 2) (workRow10 0x01 0x74 0x00))).map (fun t => t.pen.run.toNat) = some 774 := by decide +kernel

theorem test_psBox_bitmap :
    (next (exec (.psBox 2) (workRow10 0x01 0x74 0x00))).map (fun t => t.pen.box.toNat) = some 1152 := by decide
/-- R170: at reset no bitmap is ready. -/
theorem test_psBox_badState : outcome 0x151 State.reset = some (0x30, 0x151) := by decide

/-- V13: `010111010`, `1011101` and `0000101110100001011101`, under `core9` and `core7`. -/
theorem test_psFind_lines :
    [[false, true, false, true, true, true, false, true, false], [true, false, true, true, true, false, true],
      [false, false, false, false, true, false, true, true, true, false, true, false, false, false, false, true, false, true,
        true, true, false, true]].map (fun l => (lineFind .core9 l, lineFind .core7 l)) = [(80, 80), (0, 80), (80, 160)] := by
  decide
theorem test_psFind_bitmap :
    (next (exec (.psFind 2) (workRow10 0x01 0x74 0x00))).map (fun t => t.pen.find.toNat) = some 80 := by decide +kernel

/-- V15. -/
theorem test_psBal_counts :
    [0, 22, 23, 44, 45, 154, 155, 176, 177, 198, 199, 220, 221, 243, 441].map (balanceOf 441)
      = [90, 90, 80, 80, 70, 30, 20, 20, 10, 10, 0, 0, 0, 10, 90] := by decide
/-- V14: 5 black modules. -/
theorem test_psBal_bitmap :
    (next (exec (.psBal 2) (workRow10 0x01 0x74 0x00))).map (fun t => t.pen.bal.toNat) = some 90 := by decide

/-- V14: the total 2096. -/
theorem test_psScore_bitmap :
    (next (exec (.psScore 2) (workRow10 0x01 0x74 0x00))).map (fun t => (t.pen.total.toNat, t.status.penOk))
      = some (2096, true) := by decide +kernel
/-- V18. -/
theorem test_psScore_rejects :
    outcome 0x54 State.reset = some (0x30, 0x54) ∧ outcome 0x354 State.reset = some (0x40, 0x354) := by decide

/-- A tiny layout with a Data cell of offset 0, an Extra cell, a Check cell of offset 9 and a Position cell. -/
def aboutToPlace (n : BitVec 32) : State :=
  let s := tiny ⟨.data, 0⟩ ⟨.extra, 16⟩ ⟨.check, 9⟩ ⟨.position, 0⟩ laidOut
  { s with plan := { s.plan with ncopy := n }, cw := bytes [0x80, 0x40, 0xFF], tpl := s.tpl.set 0 (bytes [0x00, 0xC0]) }

/-- By hand from R191: both bits are 1; the ground is white for a search and `TPL[0]` for one template. -/
theorem test_enPlace_tiny :
    ((next (exec .enPlace (aboutToPlace 8))).map fun t => (t.workByte 0, t.workByte 1)) = some (0x80, 0x80)
    ∧ ((next (exec .enPlace (aboutToPlace 1))).map fun t => (t.workByte 0, t.workByte 1)) = some (0x80, 0x40) := by decide
/-- R191: the byte count. -/
theorem test_enPlace_mismatch :
    ((next (engineStep ({ aboutToPlace 8 with cwlen := 25 }.writeCmd 0x60))).map fun t =>
      (t.status.word.toNat, t.fatalcode.code)) = some (0x62, 9) := by decide

/-- A tiny search: side 5, stride 1, white `WORK`, and only template 3 a chequerboard. -/
def aboutToSearch : State :=
  { State.reset with
    status := { laidOut with workOk := true }
    plan := { planFor 1 8 with side := 5, stride := 1 }
    work := bytes [0, 0, 0, 0, 0]
    tpl := (clearTemplates 8 5 Templates.empty).set 3 (bytes [0xA8, 0x50, 0xA8, 0x50, 0xA8]) }

theorem test_enCand_xors :
    (next (exec (.enCand 3) { aboutToSearch with work := bytes [0xF8, 0, 0, 0, 0x08] })).map (fun t =>
      (t.pen.candmask.toNat, [0, 1, 4].map t.candByte)) = some (3, [0x50, 0x50, 0xA0]) := by decide
/-- R192: one template, and `k = 8`. -/
theorem test_enCand_rejects :
    outcome 0x461 (drawn 1 1 { laidOut with workOk := true }) = some (0x27D30, 0x461)
    ∧ outcome 0x861 aboutToSearch = some (0x27D40, 0x861) := by decide

theorem test_enKeep_copies :
    (next (exec .enKeep { aboutToSearch with
      status := { laidOut with workOk := true, candOk := true }
      pen := { PenRegs.zero with candmask := 5 }, cand := bytes [1, 2, 3, 4, 5] })).map (fun t =>
      (t.pen.bestmask.toNat, t.code, [0, 4].map t.outByte, t.status.codeOk)) = some (5, ⟨5, 1⟩, [1, 5], true) := by decide
theorem test_enKeep_badState : outcome 0x62 aboutToSearch = some (0x27D30, 0x62) := by decide

/-- By hand: white 5×5 scores 10·3 + 16·3 + 0 + 90 = 168, the chequerboard 0. -/
theorem test_enSelect_least :
    (next (exec .enSelect aboutToSearch)).map (fun t =>
      (t.pen.bestmask.toNat, t.pen.candmask.toNat, t.pen.penm.toList.map (·.toNat), t.outByte 0, t.candByte 0))
      = some (3, 7, [168, 168, 168, 0, 168, 168, 168, 168], 0xA8, 0) := by decide
/-- V17's rule: of eight equal candidates the first is kept. -/
theorem test_enSelect_tie :
    (next (exec .enSelect { aboutToSearch with tpl := clearTemplates 8 5 Templates.empty })).map (fun t =>
      t.pen.bestmask.toNat) = some 0 := by decide

/-- By hand from R195: one template; `OUT` is what `EN.PLACE` left in `WORK`. -/
theorem test_enEncode_tiny :
    (next (exec .enEncode (aboutToPlace 1))).map (fun t => (t.outByte 0, t.outByte 1, t.code, t.status.word.toNat))
      = some (0x80, 0x40, ⟨2, 1⟩, 0x127D00) := by decide
theorem test_enEncode_badState : outcome 0x64 State.reset = some (0x30, 0x64) := by decide

/-- V21: version 41 with level 4 and mask −8; mask −8 alone. -/
theorem test_plPlan_rejects :
    outcome 0x70 { State.reset with cfg := Selection.ofWord 0x8429 } = some (0x10, 0x70)
    ∧ outcome 0x70 { State.reset with cfg := Selection.ofWord 0x8001 } = some (0x10, 0x70) := by decide

/-! ### Witnesses: states and operands that meet the hypotheses of a statement -/

/-- The plan registers of every version and number of copies are of the shape the statements ask for. -/
theorem drawn_shape (v n : Nat) (st : Status) (h1 : 1 ≤ v) (h2 : v ≤ 40) (hn : n = 1 ∨ n = 8) :
    PlanShape (drawn v n st) := by
  refine ⟨?_, ?_, ?_, ?_, ?_⟩
  all_goals simp only [drawn, planFor, BitVec.toNat_ofNat]
  · omega
  · omega
  · omega
  · omega
  · rcases hn with rfl | rfl <;> simp

/-- The first and the last version, with one copy and with eight. -/
theorem boundary_shapes (st : Status) : PlanShape (drawn 1 1 st) ∧ PlanShape (drawn 40 8 st) :=
  ⟨drawn_shape 1 1 st (by decide) (by decide) (.inl rfl), drawn_shape 40 8 st (by decide) (by decide) (.inr rfl)⟩

theorem test_witness_EncodedCommandDecodesBack :
    (Instr.gpInit 0).wellFormed = true ∧ (Instr.gpInit 15).wellFormed = true ∧ (Instr.fiPlan 15 15).wellFormed = true := by
  decide

theorem test_witness_DecodedWordEncodesBack :
    decode 0x00000000 = .ok .nop ∧ decode 0x0000FF32 = .ok (.fiPlan 15 15) ∧ decode 0x00000070 = .ok .plPlan := by decide

theorem test_witness_IllegalWordsEndWithIllegalCommand :
    let s := State.reset.writeCmd 0xFFFFFFFF
    let u := State.reset.writeCmd 0x00000002
    (s.status.busy = true ∧ s.status.fatal = false ∧ isIllegal s.pending)
    ∧ (u.status.busy = true ∧ u.status.fatal = false ∧ isIllegal u.pending) := by decide

theorem test_witness_StepRunsPendingCommand :
    let s := State.reset.writeCmd (encode (.fiPlan 15 15))
    (s.port.events = [] ∧ (Instr.fiPlan 15 15).wellFormed = true ∧ s.status.busy = true ∧ s.pending = encode (.fiPlan 15 15))
    ∧ ((s.withEvents [.engine, .hardReset]).port.events = [.engine, .hardReset])
    ∧ State.reset.status.busy = false := by decide

theorem test_witness_EngineTestsInOrder :
    let locked := { State.reset with status := { Status.zero with fatal := true, busy := true } }
    let idle := { State.reset with status := { Status.zero with busy := true } }
    let ready := { drawn 1 1 { atGp 6 with paramOk := true } with status := { atGp 6 with paramOk := true, busy := true } }
    ({ locked with pending := 0xFF }.pending.toNat % 256 ≠ 1)
    ∧ ({ locked with pending := 0x101 }.pending.toNat % 256 = 1 ∧ isIllegal 0x101)
    ∧ (idle.status.fatal = false ∧ isIllegal 0x71)
    ∧ (decode 0x9832 = .ok (.fiPlan 8 9) ∧ precondition (.fiPlan 8 9) idle = false)
    ∧ (precondition (.fiPlan 8 1) ready = true ∧ parametersInRange (.fiPlan 8 1) ready = false)
    ∧ (precondition (.fiPlan 7 1) ready = true ∧ parametersInRange (.fiPlan 7 1) ready = true
      ∧ operandsInRange (.fiPlan 7 1) ready = false) := by decide

theorem test_witness_OnlyResetUnlocks :
    let s := { State.reset with status := { Status.zero with fatal := true } }
    (s.status.fatal = true ∧ Instr.nop ≠ .reset)
    ∧ (∃ t, step (s.withEvents [.hardReset]) = .next t ∧ t.status.fatal = false)
    ∧ ∃ t, step ({ s with status := { s.status with busy := true }, pending := 1 }) = .next t ∧ t.status.fatal = false :=
  ⟨by decide, ⟨_, rfl, rfl⟩, ⟨_, rfl, rfl⟩⟩

theorem referenceCap_sound : alignSoundConfig referenceConfig := by
  have key : ∀ v : Fin 41, 1 ≤ v.val → alignSound (capRecord referenceConfig v.val) := by decide
  exact fun v h1 h2 => key ⟨v, by omega⟩ h1

theorem test_witness_EveryCommandEnds :
    (alignSoundConfig State.reset.config ∧ PlanCoherent State.reset)
    ∧ PlanCoherent (drawn 1 1 (atGp 2)) ∧ PlanCoherent (drawn 40 8 (atGp 6)) :=
  ⟨⟨referenceCap_sound, fun h => by cases h⟩, fun _ => (boundary_shapes _).1, fun _ => (boundary_shapes _).2⟩

theorem test_witness_OutcomesOfEachCommand :
    (∃ t, exec .gpTiming State.reset = .next t ∧ t.status.err = .badState)
    ∧ (∃ t, exec (.gpInit 2) State.reset = .next t ∧ t.status.err = .invalidParameter)
    ∧ (∃ t, exec (.psScore 3) State.reset = .next t ∧ t.status.err = .badOperand)
    ∧ (∃ t, exec .nop { State.reset with status := { Status.zero with fatal := true } } = .next t ∧ t.status.err = .locked)
    ∧ (∃ t, exec .enPlace (drawn 1 1 laidOut) = .next t ∧ t.status.err = .fatalRaised)
    ∧ ∃ t, exec .nop State.reset = .next t ∧ t.status.err = .ok :=
  ⟨⟨_, rfl, rfl⟩, ⟨_, rfl, rfl⟩, ⟨_, rfl, rfl⟩, ⟨_, rfl, rfl⟩, ⟨_, rfl, rfl⟩, ⟨_, rfl, rfl⟩⟩

theorem test_witness_FatalEndsTheCommand :
    (drawn 1 1 laidOut).status.fatal = false
    ∧ ∃ t, exec .enPlace (drawn 1 1 laidOut) = .next t ∧ t.status.fatal = true ∧ t.fatalcode = .byteCountMismatch :=
  ⟨rfl, _, rfl, rfl, rfl⟩

theorem test_witness_ResetEventFromAnyState :
    0x2000 ≤ (0x2000 : BitVec 20).toNat ∧ 0x2000 ≤ (0xFFFFF : BitVec 20).toNat
    ∧ (State.reset.withEvents [.hardReset]).port.events = [.hardReset] := by decide

theorem test_witness_NopOnlyEnds :
    State.reset.status.fatal = false ∧ { State.reset with status := Status.zero.fatalLatched }.status.fatal = true := by
  decide

theorem test_witness_GpInitClearsGridAndTemplates :
    let first := { State.reset with cfg := ⟨1, 0, 0⟩ }
    let last := { State.reset with cfg := ⟨40, 15, 15⟩ }
    (first.status.fatal = false ∧ 1 ≤ first.cfg.version.toNat ∧ first.cfg.version.toNat ≤ 40)
    ∧ (last.status.fatal = false ∧ 1 ≤ last.cfg.version.toNat ∧ last.cfg.version.toNat ≤ 40)
    ∧ ¬ (1 ≤ State.reset.cfg.version.toNat) ∧ ¬ (2 = 1 ∨ 2 = 8) := by decide

/-- The six grid steps: each at its own `GPSTEP` and at another, for the first and the last version. -/
theorem test_witness_grid_steps :
    (∀ k : Fin 7, (drawn 1 1 (atGp k)).status.fatal = false ∧ (drawn 1 1 (atGp k)).status.gridInit = true
      ∧ (drawn 1 1 (atGp k)).status.gpstep = k ∧ PlanShape (drawn 1 1 (atGp k)) ∧ PlanShape (drawn 40 8 (atGp k)))
    ∧ ¬ (State.reset.status.gridInit = true ∧ State.reset.status.gpstep = 0)
    ∧ ∀ k : Fin 6, ¬ ((drawn 1 1 (atGp 6)).status.gpstep = k.castSucc) :=
  ⟨fun _ => ⟨rfl, rfl, rfl, boundary_shapes _⟩, by decide, by decide⟩

theorem test_witness_GpTimingDrawsRowAndColumnSix :
    PlanShape (drawn 1 1 (atGp 0)) ∧ (drawn 1 1 (atGp 0)).status.gpstep = 0
    ∧ (drawn 1 1 (atGp 0)).side = 21 ∧ ¬ ((7 = 6 ∧ 20 < 21) ∨ (5 = 6 ∧ 7 < 21)) := ⟨(boundary_shapes _).1, by decide⟩

theorem test_witness_GpFinderDrawsThreeRingedBoxes :
    PlanShape (drawn 1 1 (atGp 1)) ∧ (drawn 1 1 (atGp 1)).status.gpstep = 1
    ∧ (∃ p ∈ finderCentres 21, ring p 0 0 ≤ 4) ∧ (∃ p ∈ finderCentres 21, ring p 13 7 ≤ 4)
    ∧ ¬ ∃ p ∈ finderCentres 21, ring p 8 8 ≤ 4 := ⟨(boundary_shapes _).1, by decide⟩

theorem version_two_positions :
    alignPositions (drawn 2 1 (atGp 2)).capEntry (drawn 2 1 (atGp 2)).side = [4, 16] ∧ (drawn 2 1 (atGp 2)).side = 25 := by
  decide

theorem test_witness_GpAlignDrawsBoxes :
    let s := drawn 2 1 (atGp 2)
    (s.status.fatal = false ∧ PlanShape s ∧ alignSound s.capEntry ∧ s.status.gridInit = true ∧ s.status.gpstep = 2)
    ∧ (alignSound (drawn 1 1 (atGp 2)).capEntry ∧ alignSound (drawn 40 8 (atGp 2)).capEntry)
    ∧ (BoxAt s 16 16 ∧ InBox 16 16 20 16 ∧ ∀ r1 c1, BoxAt s r1 c1 → InBox r1 c1 20 16 → r1 = 16 ∧ c1 = 16)
    ∧ (¬ ∃ r0 c0, BoxAt s r0 c0 ∧ InBox r0 c0 15 16) ∧ 0 < s.ncopy := by
  have box : ∀ r c, BoxAt (drawn 2 1 (atGp 2)) r c → r = 16 ∧ c = 16 := by
    intro r c h
    unfold BoxAt at h
    rw [version_two_positions.1, version_two_positions.2] at h
    simp only [List.mem_cons, List.not_mem_nil, or_false] at h
    omega
  refine ⟨⟨rfl, drawn_shape 2 1 _ (by decide) (by decide) (.inl rfl), by decide, rfl, rfl⟩, by decide, ⟨?_, by decide, ?_⟩, ?_,
    by decide⟩
  · unfold BoxAt; rw [version_two_positions.1, version_two_positions.2]; decide
  · exact fun r1 c1 h _ => box r1 c1 h
  · rintro ⟨r0, c0, h, h'⟩
    obtain ⟨rfl, rfl⟩ := box r0 c0 h
    exact absurd h' (by decide)

/-- The reference parameters with another record for version 1. -/
def withRecord (e : CapEntry) : Config := { referenceConfig with cap := referenceConfig.cap.set 0 e }

theorem test_witness_GpAlignStopsOnEndlessLoop :
    let s := fun e => { drawn 1 1 (atGp 2) with config := withRecord e }
    let four : CapEntry := { CapEntry.zero with apos := 4 }
    let flat := fun a => ({ CapEntry.zero with apos := a, astride := 0 } : CapEntry)
    (∀ e, (s e).status.fatal = false ∧ (s e).status.gridInit = true ∧ (s e).status.gpstep = 2 ∧ PlanShape (s e))
    ∧ (s four).capEntry.apos.toNat = 4
    ∧ ((s (flat 5)).capEntry.astride.toNat = 0 ∧ 5 ≤ (s (flat 5)).capEntry.apos.toNat
      ∧ (s (flat 5)).capEntry.apos.toNat + 5 < (s (flat 5)).side)
    ∧ ((s (flat 15)).capEntry.astride.toNat = 0 ∧ (s (flat 15)).capEntry.apos.toNat + 5 < (s (flat 15)).side) := by
  refine ⟨fun e => ⟨rfl, rfl, rfl, ?_⟩, by decide⟩
  obtain ⟨h1, h2, h3, h4, h5⟩ := (boundary_shapes (atGp 2)).1
  exact ⟨h1, h2, h3, h4, h5⟩

theorem test_witness_GpVerinfoDrawsTwoMirroredBlocks :
    PlanShape (drawn 7 1 (atGp 3)) ∧ (drawn 7 1 (atGp 3)).status.gpstep = 3
    ∧ 7 ≤ (drawn 7 1 (atGp 3)).plan.plancfg.version.toNat ∧ (drawn 7 1 (atGp 3)).side = 45
    ∧ ¬ 7 ≤ (drawn 6 1 (atGp 3)).plan.plancfg.version.toNat :=
  ⟨drawn_shape 7 1 _ (by decide) (by decide) (.inl rfl), by decide⟩

theorem test_witness_GpFmtrsvReservesBothCopies :
    PlanShape (drawn 1 1 (atGp 4)) ∧ (drawn 1 1 (atGp 4)).status.gpstep = 4
    ∧ IsFormatCell 21 0 0 8 ∧ IsFormatCell 21 0 8 20 ∧ IsFormatCell 21 14 8 0 ∧ IsFormatCell 21 14 20 8
    ∧ ∀ i, ¬ IsFormatCell 21 i 9 9 := by
  refine ⟨(boundary_shapes _).1, rfl, .inl rfl, .inr rfl, .inl rfl, .inr rfl, fun i h => ?_⟩
  rcases h with h | h
  · have := List.mem_of_getElem? h; revert this; decide
  · have := List.mem_of_getElem? h; revert this; decide

theorem test_witness_GpDarkDrawsOneModule :
    PlanShape (drawn 1 1 (atGp 5)) ∧ PlanShape (drawn 40 8 (atGp 5)) ∧ (drawn 1 1 (atGp 5)).status.gpstep = 5 :=
  ⟨(boundary_shapes _).1, (boundary_shapes _).2, rfl⟩

theorem test_witness_GpAllIsItsSevenCommands :
    let first := { State.reset with cfg := ⟨1, 0, 0⟩ }
    let last := { State.reset with cfg := ⟨40, 0, 0⟩ }
    (first.status.fatal = false ∧ 1 ≤ first.cfg.version.toNat ∧ first.cfg.version.toNat ≤ 40
      ∧ alignSound (capRecord first.config first.cfg.version.toNat))
    ∧ (last.cfg.version.toNat ≤ 40 ∧ alignSound (capRecord last.config last.cfg.version.toNat))
    ∧ ¬ (1 ≤ State.reset.cfg.version.toNat) := by decide

theorem test_witness_BlParamComputesBlockSizes :
    let s := fun l => { drawn 1 1 (atGp 0) with cfg := ⟨1, l, 0⟩ }
    let broken := { s 0 with config := withRecord CapEntry.zero }
    ((s 0).status.fatal = false ∧ (s 0).status.gridInit = true ∧ (s 0).status.layoutOk = false
      ∧ (s 0).status.planOk = false)
    ∧ (levelSound (s 0).capEntry (s 0).cfg.level.toNat ∧ (s 3).cfg.level.toNat ≤ 3
      ∧ levelSound (s 3).capEntry (s 3).cfg.level.toNat)
    ∧ ¬ levelSound broken.capEntry broken.cfg.level.toNat
    ∧ ¬ (s 4).cfg.level.toNat ≤ 3 ∧ ¬ State.reset.status.gridInit = true := by decide

/-- Version 5 level Q, the plan of V5: blocks of two lengths. -/
def planFiveQ : PlanRegs :=
  { planFor 5 1 with
    plancfg := ⟨5, 2, 0⟩, nb := 4, ne := 18, nde := 15, extra := 2, databytes := 62, checkbytes := 72 }

theorem test_witness_BlIlvInterleaves :
    let s := { drawn 5 1 { atGp 6 with paramOk := true } with plan := planFiveQ }
    (s.status.fatal = false ∧ s.status.paramOk = true ∧ s.status.layoutOk = false ∧ s.status.planOk = false ∧ BlockShape s)
    ∧ (3 < s.plan.nb.toNat ∧ 15 < dataLen s.plan 3 ∧ ¬ 15 < dataLen s.plan 1 ∧ 17 < s.plan.ne.toNat)
    ∧ ¬ State.reset.status.paramOk = true :=
  ⟨⟨rfl, rfl, rfl, rfl, by decide, by decide, by decide, by decide, by decide, by decide⟩, by decide, by decide⟩

theorem test_witness_SweepVisitsEveryCellInOrder :
    (1 ≤ 1 ∧ 1 ≤ 40 ∧ 0 < 17 + 4 * 1 ∧ 20 < 17 + 4 * 1 ∧ 5 ≠ 6 ∧ 7 ≠ 6)
    ∧ ((sweepOrder 21)[sweepPlace 21 20 20]? = some (20, 20) ∧ (sweepOrder 21)[sweepPlace 21 12 0]? = some (12, 0)) := by
  decide

/-- A record whose 52 bytes fill the 420 free cells of an otherwise empty grid of side 21, and a plan for it. -/
def record52 : CapEntry := { bytes := 52, apos := 20, astride := 20, vpat := 0, l := ⟨1, 12⟩, m := ⟨1, 12⟩, q := ⟨1, 12⟩, h := ⟨1, 12⟩ }

def plan52 : PlanRegs :=
  { planFor 1 1 with nb := 1, ne := 12, nde := 40, extra := 0, databytes := 40, checkbytes := 12, seqlen := 423 }

def open52 (p : PlanRegs) (st : Status) : State :=
  { drawn 1 1 st with plan := p, config := withRecord record52, grid := clearGrid 21 [] }

theorem open52_cell (p : PlanRegs) (st : Status) {r c : Nat} (hr : r < 21) (hc : c < 21) :
    (open52 p st).cell r c = Cell.blank := by
  unfold State.cell open52
  rw [get?_clearGrid 21 r c [] (by decide) (by omega), if_pos ⟨hr, hc⟩]
  rfl

theorem sweepOrder21_mem : ∀ v ∈ sweepOrder 21, v.1 < 21 ∧ v.2 < 21 := by decide

/-- No two visits of the sweep of a version 1 grid are to one cell: `sweepPlace` tells them apart. -/
theorem sweepOrder21_nodup : ((sweepOrder 21).map fun v => cellIndex v.1 v.2).Nodup := by
  refine List.Nodup.of_map (fun i => sweepPlace 21 (i / 256) (i % 256)) ?_
  have h : ((sweepOrder 21).map fun v => cellIndex v.1 v.2).map (fun i => sweepPlace 21 (i / 256) (i % 256))
      = List.range 420 := by decide +kernel
  rw [h]
  exact List.nodup_range

theorem open52_free (p : PlanRegs) (st : Status) (hp : p.side = 21) : freeInOrder (open52 p st) = sweepOrder 21 := by
  unfold freeInOrder
  rw [show (open52 p st).side = 21 by show p.side.toNat = 21; rw [hp]; rfl]
  refine List.filter_eq_self.mpr fun v hv => ?_
  obtain ⟨h1, h2⟩ := sweepOrder21_mem v hv
  rw [open52_cell p st h1 h2]
  rfl

theorem open52_freeCells (p : PlanRegs) (st : Status) (hp : p.side = 21) : freeCells (open52 p st) = 420 := by
  have : freeCells (open52 p st) = (freeInOrder (open52 p st)).length := rfl
  rw [this, open52_free p st hp]
  decide

theorem plan52_shape (st : Status) : PlanShape (open52 plan52 st) ∧ BlockShape (open52 plan52 st) := by
  have h : PlanShape (open52 plan52 Status.zero) ∧ BlockShape (open52 plan52 Status.zero) :=
    ⟨⟨by decide, by decide, by decide, by decide, .inl rfl⟩,
      ⟨by decide, by decide, by decide, by decide, by decide, by decide⟩⟩
  obtain ⟨⟨a1, a2, a3, a4, a5⟩, ⟨b1, b2, b3, b4, b5, b6⟩⟩ := h
  exact ⟨⟨a1, a2, a3, a4, a5⟩, ⟨b1, b2, b3, b4, b5, b6⟩⟩

theorem test_witness_BlSweepFillsFreeCells :
    let st : Status := { atGp 6 with paramOk := true, seqOk := true }
    let s := open52 plan52 st
    let long := open52 { plan52 with checkbytes := 13 } st
    let short := open52 { plan52 with seqlen := 419 } st
    (s.status.fatal = false ∧ PlanShape s ∧ s.status.gridInit = true ∧ s.status.gpstep = 6 ∧ s.status.seqOk = true
      ∧ s.status.layoutOk = false ∧ s.status.planOk = false)
    ∧ (8 * (s.plan.databytes.toNat + s.plan.checkbytes.toNat) ≤ (freeInOrder s).length
      ∧ (freeInOrder s).length ≤ s.plan.seqlen.toNat)
    ∧ ((freeInOrder s)[0]? = some (20, 20) ∧ (freeInOrder s)[419]? = some (20, 0))
    ∧ ¬ 8 * (long.plan.databytes.toNat + long.plan.checkbytes.toNat) ≤ (freeInOrder long).length
    ∧ ¬ (freeInOrder short).length ≤ short.plan.seqlen.toNat := by
  dsimp only
  rw [open52_free plan52 _ rfl, open52_free { plan52 with checkbytes := 13 } _ rfl,
    open52_free { plan52 with seqlen := 419 } _ rfl]
  exact ⟨⟨rfl, (plan52_shape _).1, rfl, rfl, rfl, rfl, rfl⟩, by decide⟩

theorem test_witness_BlAllIsItsThreeCommands :
    let s := open52 (planFor 1 1) (atGp 6)
    (s.status.fatal = false ∧ PlanShape s ∧ s.status.gridInit = true ∧ s.status.gpstep = 6 ∧ s.status.layoutOk = false
      ∧ s.status.planOk = false ∧ s.cfg.level.toNat ≤ 3 ∧ levelSound s.capEntry s.cfg.level.toNat)
    ∧ (8 * s.capEntry.bytes.toNat ≤ freeCells s ∧ freeCells s ≤ 8 * s.capEntry.bytes.toNat + 7)
    ∧ (¬ ({ s with cfg := ⟨1, 4, 0⟩ } : State).cfg.level.toNat ≤ 3
      ∧ ¬ levelSound ({ s with config := withRecord CapEntry.zero } : State).capEntry 0
      ∧ levelSound ({ s with config := withRecord { record52 with bytes := 51 } } : State).capEntry 3
      ∧ ¬ freeCells s ≤ 8 * ({ s with config := withRecord { record52 with bytes := 51 } } : State).capEntry.bytes.toNat + 7)
    ∧ ¬ (drawn 1 1 (atGp 5)).status.gpstep = 6 := by
  dsimp only
  rw [open52_freeCells (planFor 1 1) _ rfl]
  exact ⟨⟨rfl, ⟨by decide, by decide, by decide, by decide, .inl rfl⟩, by decide⟩, by decide⟩

theorem test_witness_FinishedGridHasEachOffsetOnce :
    ∃ s t : State, PlanShape s ∧ BlockShape s
      ∧ (∀ r c, r < s.side → c < s.side → Role.masked (s.cell r c).role = false) ∧ Chain [.blIlv, .blSweep] s t := by
  refine ⟨open52 plan52 { atGp 6 with paramOk := true }, ?_⟩
  have hb := (plan52_shape { atGp 6 with paramOk := true }).2
  have hlen := length_interleaved plan52 hb.check_eq hb.data_eq hb.extra_lt
  have hu : (blIlv (open52 plan52 { atGp 6 with paramOk := true })).finish
      = { open52 { plan52 with seqlen := 423 } { atGp 6 with paramOk := true, seqOk := true } with
          seq := Memory.writeList [] (interleaved plan52) } := by
    unfold blIlv
    show _ = _
    have : (interleaved (open52 plan52 { atGp 6 with paramOk := true }).plan).length = 423 := hlen
    rw [this]
    rfl
  obtain ⟨t, ht, -⟩ := blSweep_isDone (s := (blIlv (open52 plan52 { atGp 6 with paramOk := true })).finish)
    (by rw [hu]; exact sweepOrder21_nodup)
    (by
      rw [hu]
      show _ ≤ freeCells (open52 { plan52 with seqlen := 423 } { atGp 6 with paramOk := true, seqOk := true })
      rw [open52_freeCells _ _ rfl]; decide)
    (by
      rw [hu]
      show freeCells (open52 { plan52 with seqlen := 423 } { atGp 6 with paramOk := true, seqOk := true }) ≤ _
      rw [open52_freeCells _ _ rfl]; decide)
  refine ⟨t.finish, (plan52_shape _).1, hb, fun r c hr hc => ?_, _, exec_of_ready (by decide) ⟨rfl, rfl, rfl, rfl⟩, rfl, _, ?_,
    rfl, rfl⟩
  · rw [open52_cell plan52 _ hr hc]; rfl
  · have hr : Ready .blSweep (blIlv (open52 plan52 { atGp 6 with paramOk := true })).finish := by
      rw [hu]; exact ⟨rfl, rfl, rfl, rfl⟩
    rw [exec_of_ready (by decide) hr]
    simp only [effectOf, ht]
    rfl

theorem test_witness_FiEncComputesFormatWord :
    let s := fun l => { drawn 1 1 { atGp 0 with paramOk := true } with plan := { planFor 1 1 with plancfg := ⟨1, l, 0⟩ } }
    ((s 0).status.fatal = false ∧ (s 0).status.paramOk = true ∧ (s 0).status.planOk = false ∧ 7 ≤ 7
      ∧ (s 3).plan.plancfg.level.toNat ≤ 3)
    ∧ ¬ 8 ≤ 7 ∧ ¬ State.reset.status.paramOk = true ∧ (0, 0) ≠ (3, 7) := by decide

theorem test_witness_FiPaintWritesBothCopies :
    let st : Status := { atGp 6 with paramOk := true, fmtOk := true }
    (PlanShape (drawn 1 1 st) ∧ PlanShape (drawn 40 8 st))
    ∧ (st.fatal = false ∧ st.gridInit = true ∧ st.gpstep = 6 ∧ st.fmtOk = true ∧ st.planOk = false)
    ∧ (0 < (drawn 1 1 st).ncopy ∧ 7 < (drawn 40 8 st).ncopy ∧ ¬ 1 < (drawn 1 1 st).ncopy ∧ ¬ 8 ≤ 7)
    ∧ ¬ State.reset.status.fmtOk = true :=
  ⟨boundary_shapes _, by decide⟩

theorem test_witness_FiPlanIsItsTwoCommands :
    let s := drawn 40 8 { atGp 6 with paramOk := true }
    (s.status.fatal = false ∧ s.status.gridInit = true ∧ s.status.gpstep = 6 ∧ s.status.paramOk = true
      ∧ s.status.planOk = false ∧ 7 < s.ncopy)
    ∧ ¬ 8 ≤ 7 ∧ ¬ 1 < (drawn 1 1 s.status).ncopy ∧ ¬ State.reset.status.paramOk = true := by decide

theorem test_witness_MkApplyFlipsMaskedModules :
    let s := drawn 40 8 laidOut
    PlanShape s ∧ (s.status.fatal = false ∧ s.status.layoutOk = true ∧ s.status.planOk = false ∧ 7 < s.ncopy)
    ∧ ¬ 8 ≤ 7 ∧ ¬ 1 < (drawn 1 1 laidOut).ncopy ∧ ¬ State.reset.status.layoutOk = true :=
  ⟨(boundary_shapes _).2, by decide⟩

/-- `CAND`, `OUT` and `WORK` each ready; a line whose run starts it, with nothing and with the other colour after it. -/
theorem test_witness_penalty_commands :
    let s := drawn 1 8 { laidOut with workOk := true, candOk := true, codeOk := true }
    (s.status.fatal = false ∧ 0 ≤ 2 ∧ scoredReady 0 s = true ∧ scoredReady 1 s = true ∧ scoredReady 2 s = true)
    ∧ (1 ≤ 1 ∧ ([] : List Bool).head? ≠ some true ∧ [false].head? ≠ some true) ∧ 21 % 2 = 1 ∧ 177 % 2 = 1 := by decide

theorem test_witness_PsRunAddsMaximalRuns :
    scoredReady 2 (drawn 1 1 { laidOut with workOk := true }) = true
    ∧ (1 ≤ 5 ∧ [false, true].head? ≠ some true ∧ ([] : List Bool).head? ≠ some true) := by decide
theorem test_witness_PsBoxCountsBlocks : scoredReady 0 (drawn 1 8 { laidOut with candOk := true }) = true := by decide
theorem test_witness_PsFindCountsOccurrences : scoredReady 1 (drawn 1 1 { laidOut with codeOk := true }) = true := by decide
theorem test_witness_PsBalFoldsTheBlackCount :
    scoredReady 1 (drawn 1 1 { laidOut with codeOk := true }) = true ∧ 21 % 2 = 1 := by decide
theorem test_witness_PsScoreAddsTheFourTerms :
    (drawn 1 8 { laidOut with candOk := true }).status.fatal = false
    ∧ scoredReady 0 (drawn 1 8 { laidOut with candOk := true }) = true
    ∧ (State.reset.status.fatal = false ∧ 2 ≤ 2 ∧ scoredReady 2 State.reset = false ∧ ¬ 3 ≤ 2) := by decide
theorem test_witness_PenaltyTermsAreBounded : 177 ≤ 177 ∧ 0 ≤ 177 := by decide
theorem test_witness_PenaltyDependsOnModulesAlone :
    ∃ b b' : Modules, (∀ r c, r < 21 → c < 21 → b r c = b' r c) ∧ b 21 0 ≠ b' 21 0 :=
  ⟨fun _ _ => false, fun r _ => r == 21, fun r c hr _ => by simp; omega, by decide⟩

theorem test_witness_EnPlaceXorsCodewordBits :
    let s := { drawn 1 1 laidOut with cwlen := 26 }
    (PlanShape s ∧ PlanShape (drawn 40 8 laidOut))
    ∧ (s.status.fatal = false ∧ s.status.layoutOk = true ∧ s.cwlen.toNat = s.capEntry.bytes.toNat)
    ∧ (drawn 1 1 laidOut).cwlen.toNat ≠ (drawn 1 1 laidOut).capEntry.bytes.toNat
    ∧ State.reset.status.layoutOk = false := by
  refine ⟨⟨?_, (boundary_shapes _).2⟩, by decide⟩
  obtain ⟨h1, h2, h3, h4, h5⟩ := (boundary_shapes laidOut).1
  exact ⟨h1, h2, h3, h4, h5⟩

theorem test_witness_EnCandXorsTemplate :
    let st : Status := { laidOut with workOk := true }
    ((drawn 1 8 st).status.fatal = false ∧ (drawn 1 8 st).status.workOk = true ∧ (drawn 1 8 st).ncopy = 8 ∧ 7 ≤ 7 ∧ ¬ 8 ≤ 7)
    ∧ ¬ (drawn 1 1 st).ncopy = 8 := by decide

theorem test_witness_EnKeepCopiesCandidate :
    (drawn 1 8 { laidOut with workOk := true, candOk := true }).status.candOk = true
    ∧ (drawn 1 8 { laidOut with workOk := true, candOk := true }).status.fatal = false
    ∧ State.reset.status.candOk = false := by decide

theorem test_witness_EnSelectReturnsTheOnlyBitmap :
    let s := drawn 1 1 { laidOut with workOk := true }
    (s.status.fatal = false ∧ s.status.workOk = true ∧ s.ncopy = 1) ∧ State.reset.status.workOk = false := by decide

theorem test_witness_EnSelectKeepsLeastPenalty :
    let s := drawn 40 8 { laidOut with workOk := true }
    PlanShape s ∧ s.status.fatal = false ∧ s.status.workOk = true ∧ s.ncopy = 8 :=
  ⟨(boundary_shapes _).2, by decide⟩

theorem test_witness_EnEncodeIsItsTwoCommands :
    let one := { drawn 1 1 laidOut with cwlen := 26 }
    let eight := { drawn 40 8 laidOut with cwlen := 3706 }
    (one.status.fatal = false ∧ one.status.layoutOk = true ∧ one.cwlen.toNat = one.capEntry.bytes.toNat ∧ one.ncopy = 1)
    ∧ (eight.cwlen.toNat = eight.capEntry.bytes.toNat ∧ eight.ncopy = 8)
    ∧ (drawn 1 1 laidOut).cwlen.toNat ≠ (drawn 1 1 laidOut).capEntry.bytes.toNat
    ∧ State.reset.status.layoutOk = false := by decide

/-! The grid of `GP.ALL` for version 1 has the free cells of V1's role map, whatever `n`. -/

/-- V1's role map: the cells printed `.`. -/
def freeAt (r c : Nat) : Bool := r != 6 && c != 6 && (9 ≤ c && c ≤ 12 || 9 ≤ r && r ≤ 12 || 9 ≤ r && 9 ≤ c)

def gridOne : Memory Cell :=
  (allPaints 21 1 (capRecord referenceConfig 1).vpat [4]).foldl
    (fun g p => Memory.set g (cellIndex p.r p.c) ⟨p.role, .ofNat 15 p.off⟩) (clearGrid 21 [])

theorem gridOne_wf : Memory.wf gridOne := by
  unfold gridOne
  generalize allPaints 21 1 _ _ = ps
  have h : Memory.wf (clearGrid 21 []) := clearGrid_wf 21 [] Memory.wf_nil
  generalize clearGrid 21 [] = g at h
  induction ps generalizing g with
  | nil => exact h
  | cons p ps ih => exact ih _ (Memory.set_wf _ _ _ h)

/-- V1: which cells are Unassigned. -/
theorem test_gpAll_free_cells :
    (gridOne.map fun p => (p.1, p.2.role == .unassigned))
      = (coordinates 21).map fun q => (cellIndex q.1 q.2, freeAt q.1 q.2) := by decide +kernel

theorem gridOne_get {r c : Nat} (hr : r < 21) (hc : c < 21) :
    ∃ x, Memory.get? gridOne (cellIndex r c) = some x ∧ (x.role == .unassigned) = freeAt r c := by
  have hm : (cellIndex r c, freeAt r c) ∈ gridOne.map fun p => (p.1, p.2.role == .unassigned) := by
    rw [test_gpAll_free_cells]
    exact List.mem_map.mpr ⟨(r, c), (mem_coordinates 21 r c).mpr ⟨hr, hc⟩, rfl⟩
  obtain ⟨p, hp, he⟩ := List.mem_map.mp hm
  obtain ⟨i, hi, rfl⟩ := List.getElem_of_mem hp
  have := Memory.get?_getElem gridOne gridOne_wf i hi
  injection he with h1 h2
  exact ⟨_, by rw [← h1]; exact this, h2⟩

/-- Version 1, level L, a fixed mask or the search, with the reference parameters. -/
def aboutToPlan (m : BitVec 4) : State := { State.reset with cfg := ⟨1, 0, m⟩ }

theorem gpAll_one_free {n : Nat} {m : BitVec 4} {t : State} (h : gpAll n (aboutToPlan m) = .done t) :
    t.side = 21 ∧ freeCells t = 208 := by
  obtain ⟨coords, hc, hg⟩ := gpAll_grid h
  have hv : (aboutToPlan m).cfg.version.toNat = 1 := rfl
  rw [hv] at hc hg
  have hc4 : alignCoords (capRecord (aboutToPlan m).config 1) (17 + 4 * 1) = some [4] := by
    show alignCoords (capRecord referenceConfig 1) (17 + 4 * 1) = some [4]
    decide
  rw [hc4] at hc
  injection hc with hc
  subst hc
  have hs : t.side = 21 := by rw [(gpAll_frame h).1]; rfl
  refine ⟨hs, ?_⟩
  unfold freeCells
  rw [hs]
  have : (sweepOrder 21).filter (fun p => decide ((t.cell p.1 p.2).role = .unassigned))
      = (sweepOrder 21).filter fun p => freeAt p.1 p.2 := by
    refine List.filter_congr fun v hv => ?_
    obtain ⟨h1, h2⟩ := sweepOrder21_mem v hv
    obtain ⟨x, hx, hf⟩ := gridOne_get h1 h2
    have : t.cell v.1 v.2 = x := by
      unfold State.cell
      rw [hg]
      show (Memory.get? gridOne _).getD _ = x
      rw [hx]; rfl
    rw [this, ← hf, beq_eq_decide]
  rw [this]
  decide

/-- `F(1) = 208`, the free cells of V1. -/
theorem test_plannedFree : plannedFree (capRecord referenceConfig 1) 1 = 208 := by decide +kernel

theorem test_witness_PlPlanIsTheHandBuiltPlanSealed :
    (∀ m : BitVec 4, m = 0 ∨ m = 7 ∨ m = 15 →
      (aboutToPlan m).status.fatal = false ∧ 1 ≤ (aboutToPlan m).cfg.version.toNat ∧ (aboutToPlan m).cfg.version.toNat ≤ 40
      ∧ (aboutToPlan m).cfg.level.toNat ≤ 3 ∧ ((aboutToPlan m).cfg.mask.toNat ≤ 7 ∨ (aboutToPlan m).cfg.mask.toNat = 15)
      ∧ alignSound (capRecord (aboutToPlan m).config (aboutToPlan m).cfg.version.toNat)
      ∧ levelSound (capRecord (aboutToPlan m).config (aboutToPlan m).cfg.version.toNat) (aboutToPlan m).cfg.level.toNat
      ∧ 8 * (capRecord (aboutToPlan m).config (aboutToPlan m).cfg.version.toNat).bytes.toNat
        ≤ plannedFree (capRecord (aboutToPlan m).config (aboutToPlan m).cfg.version.toNat) (aboutToPlan m).cfg.version.toNat
      ∧ plannedFree (capRecord (aboutToPlan m).config (aboutToPlan m).cfg.version.toNat) (aboutToPlan m).cfg.version.toNat
        ≤ 8 * (capRecord (aboutToPlan m).config (aboutToPlan m).cfg.version.toNat).bytes.toNat + 7)
    ∧ ¬ ((aboutToPlan 8).cfg.mask.toNat ≤ 7 ∨ (aboutToPlan 8).cfg.mask.toNat = 15) := by
  refine ⟨fun m hm => ?_, by decide⟩
  have h1 : (aboutToPlan m).cfg.version.toNat = 1 := rfl
  have h2 : (aboutToPlan m).cfg.level.toNat = 0 := rfl
  have h3 : (aboutToPlan m).config = referenceConfig := rfl
  have h4 : (aboutToPlan m).cfg.mask.toNat ≤ 7 ∨ (aboutToPlan m).cfg.mask.toNat = 15 := by
    rcases hm with rfl | rfl | rfl <;> decide
  rw [h1, h2, h3, test_plannedFree]
  exact ⟨rfl, by decide, by decide, by decide, h4, by decide, by decide, by decide, by decide⟩

theorem test_witness_PlanTemplatesByRole :
    (aboutToPlan 15).status.fatal = false
    ∧ alignSound (capRecord (aboutToPlan 15).config (aboutToPlan 15).cfg.version.toNat)
    ∧ ∃ t, exec .plPlan (aboutToPlan 15) = .next t ∧ t.status.err = .ok := by
  have ha : alignSound (capRecord (aboutToPlan 15).config (aboutToPlan 15).cfg.version.toNat) := by decide
  refine ⟨rfl, ha, ?_⟩
  obtain ⟨g, hg⟩ := gpAll_isDone (s := aboutToPlan 15) (if 0 ≤ requestedMask (aboutToPlan 15) then 1 else 8) ha
  obtain ⟨hs, hf⟩ := gpAll_one_free hg
  have hk := gpAll_keeps hg
  have hcap : g.capEntry = capRecord referenceConfig 1 := by rw [(gpAll_frame hg).1]; rfl
  have hcfg : g.cfg.level.toNat = 0 := by rw [hk.cfg]; rfl
  obtain ⟨t, ht⟩ := plPlan_isDone hg (blAll_isDone (by rw [hcfg]; decide) (by rw [hcap, hcfg]; decide)
    (by rw [hs]; exact sweepOrder21_nodup) (by rw [hcap, hf]; decide) (by rw [hcap, hf]; decide))
  refine ⟨t.finish, ?_, rfl⟩
  rw [exec_of_ready (by decide) ⟨rfl, by decide, by decide, by decide⟩]
  simp only [effectOf, ht]
  rfl

theorem test_witness_ReadsAndRefusedWritesChangeNothing :
    (State.reset.withEvents [.read 0 4]).port.events = [.read 0 4]
    ∧ (State.reset.withEvents [.write 0x14 4 7, .engine]).port.events = [.write 0x14 4 7, .engine]
    ∧ memWrite (State.reset.withEvents []) 0x14 4 7 = none ∧ (memWrite State.reset 0x10 4 0x1FFF).isSome = true := by decide

theorem test_witness_BusyHostSeesStatusAndIdOnly : (State.reset.writeCmd 0).status.busy = true := by decide

theorem test_witness_AcceptedWritesAndTheirEffects :
    State.reset.status.busy = false ∧ (0x04 : BitVec 20).toNat = 0x04 ∧ (0x0C : BitVec 20).toNat = 0x0C
    ∧ (0x10 : BitVec 20).toNat = 0x10
    ∧ (0x1000 ≤ (0x1000 : BitVec 20).toNat ∧ (0x1FFF : BitVec 20).toNat < 0x2000)
    ∧ (State.reset.writeCmd 0).status.busy = true
    ∧ ¬ ((0x14 : BitVec 20).toNat ∈ [0x04, 0x0C, 0x10]) ∧ ¬ (0x1000 ≤ (0x0FFF : BitVec 20).toNat) := by decide

theorem test_witness_IdleReadsOfEveryLocation :
    State.reset.status.busy = false ∧ (0xA4, 0) ∈ registerMap State.reset
    ∧ (∀ a ∈ [0x04, 0x1C, 0x54, 0x7C, 0xA8, 0xFF], a < 0x100 ∧ a ∉ (registerMap State.reset).map Prod.fst)
    ∧ (0 < 64 ∧ 63 < 64 ∧ 7 < 8) ∧ (2 ≠ 1 ∧ 2 ≠ 4) ∧ (0x1001 : BitVec 20).toNat % 4 ≠ 0
    ∧ ((0xFFF : BitVec 20).toNat < 0x1000 ∧ 0x5000 ≤ (0x5000 : BitVec 20).toNat ∧ (0x7FFF : BitVec 20).toNat < 0x8000
      ∧ 0x10000 ≤ (0x10000 : BitVec 20).toNat)
    ∧ (0x100 ≤ (0x100 : BitVec 20).toNat ∧ (0x7FC : BitVec 20).toNat < 0x800 ∧ 0x1000 ≤ (0x1000 : BitVec 20).toNat
      ∧ (0x3FFFC : BitVec 20).toNat < 0x40000 ∧ 0xA0000 ≤ (0xA0000 : BitVec 20).toNat) := by decide

theorem reset_flags : FlagsCoherent State.reset := by constructor <;> decide
theorem reset_plan : PlanCoherent State.reset := fun h => by cases h
theorem reset_layout : LayoutCoherent State.reset := by constructor <;> intro h <;> cases h
theorem reset_canonical : Canonical State.reset := by decide

theorem test_witness_StepKeepsMemoriesCanonical :
    Canonical (State.reset.writeCmd 0x110) ∧ ∃ t, step (State.reset.writeCmd 0x110) = .next t :=
  ⟨reset_canonical, _, rfl⟩

theorem test_witness_StepKeepsPlanCoherent :
    PlanCoherent (drawn 1 1 (atGp 0)) ∧ ∃ t, step (drawn 1 1 (atGp 0)) = .next t :=
  ⟨fun _ => (boundary_shapes _).1, _, rfl⟩

theorem test_witness_StepKeepsFlagsCoherent :
    PlanCoherent State.reset ∧ FlagsCoherent State.reset ∧ ∃ t, step (State.reset.writeCmd 0) = .next t :=
  ⟨reset_plan, reset_flags, _, rfl⟩

theorem test_witness_StepKeepsLayoutCoherent :
    FlagsCoherent State.reset ∧ LayoutCoherent State.reset ∧ ∃ t, step (State.reset.writeCmd 0) = .next t :=
  ⟨reset_flags, reset_layout, _, rfl⟩

theorem test_witness_BuiltPlanIsReadOnly :
    let s := drawn 1 8 { laidOut with fmtOk := true, planOk := true, workOk := true }
    (∃ t, exec (.enCand 7) s = .next t ∧ t.status.fatal = s.status.fatal)
    ∧ (FlagsCoherent s ∧ s.status.planOk = true ∧ Instr.blParam ≠ .reset ∧ Instr.blParam ≠ .plPlan)
    ∧ ∃ t, exec .blParam s = .next t ∧ t.status.fatal = s.status.fatal :=
  ⟨⟨_, rfl, rfl⟩, ⟨by constructor <;> decide, rfl, by decide, by decide⟩, _, rfl, rfl⟩

theorem test_witness_CommandsKeepHostInputs :
    (Instr.nop ≠ .reset ∧ ∃ t, exec .nop State.reset = .next t) ∧ ∃ t, step State.reset = .next t :=
  ⟨⟨by decide, _, rfl⟩, _, rfl⟩

end Sys2Proof.Tests
end

section
/-! PROOFS. The host's accesses (rules R81, R82, R85, R87): the list of events is no part of what an access sees or does,
and `BUSY = 1` leaves the host two readable locations. -/

namespace Sys2Proof.Machine

/-! ### An access does not see the list of events -/

theorem readLocation_withEvents (s : State) (es : List Event) (loc : Location) :
    readLocation (s.withEvents es) loc = readLocation s loc := by
  cases loc <;> rfl

theorem memRead_withEvents (s : State) (es : List Event) (addr : BitVec 20) (width : Nat) :
    memRead (s.withEvents es) addr width = memRead s addr width := by
  simp only [memRead, State.withEvents_status, readLocation_withEvents]

theorem writeLocation_withEvents (s : State) (es : List Event) (value : Word) (loc : Location) :
    writeLocation (s.withEvents es) value loc = (writeLocation s value loc).map (·.withEvents es) := by
  cases loc with
  | register offset => unfold writeLocation; dsimp only; split <;> rfl
  | _ => rfl

theorem memWrite_withEvents (s : State) (es : List Event) (addr : BitVec 20) (width : Nat) (value : Word) :
    memWrite (s.withEvents es) addr width value = (memWrite s addr width value).map (·.withEvents es) := by
  unfold memWrite
  cases locationOf addr width with
  | none => rfl
  | some loc =>
    cases hb : s.status.busy
    · simp [hb, writeLocation_withEvents]
    · simp [hb]

/-! ### The step of a host access -/

/-- The bus's answer to a read: the value, or the error response (rule R82). -/
def readAnswer (s : State) (addr : BitVec 20) (width : Nat) : BusAnswer :=
  match memRead s addr width with
  | some v => .data v
  | none => .refused

theorem hostRead_eq_answered (s : State) (addr : BitVec 20) (width : Nat) :
    hostRead s addr width = s.answered (readAnswer s addr width) := by
  unfold hostRead readAnswer
  cases memRead s addr width <;> rfl

theorem hostWrite_of_refused {s : State} {addr : BitVec 20} {width : Nat} {value : Word}
    (h : memWrite s addr width value = none) : hostWrite s addr width value = s.answered .refused := by
  simp only [hostWrite, h]

theorem hostWrite_of_accepted {s t : State} {addr : BitVec 20} {width : Nat} {value : Word}
    (h : memWrite s addr width value = some t) : hostWrite s addr width value = t.answered .stored := by
  simp only [hostWrite, h]

theorem step_read {s : State} {addr : BitVec 20} {width : Nat} {es : List Event}
    (he : s.port.events = .read addr width :: es) :
    step s = .next ((s.withEvents es).answered (readAnswer s addr width)) := by
  have ha : readAnswer (s.withEvents es) addr width = readAnswer s addr width := by
    simp only [readAnswer, memRead_withEvents]
  simp only [step, he, hostRead_eq_answered, ha]

theorem step_write {s : State} {addr : BitVec 20} {width : Nat} {value : Word} {es : List Event}
    (he : s.port.events = .write addr width value :: es) :
    step s = .next (hostWrite (s.withEvents es) addr width value) := by
  simp only [step, he]

/-- Settles O49: the step of an access takes the event off and answers, and what the access does is the same with the event
taken off (rules R82, R87). -/
theorem readsAndRefusedWritesChangeNothing : Obligations.ReadsAndRefusedWritesChangeNothing := by
  intro s addr width es
  refine ⟨fun he => step_read he, fun value he => ⟨fun hw => ?_, fun t hw => ?_⟩⟩
  · have hw' : memWrite (s.withEvents es) addr width value = none := by rw [memWrite_withEvents, hw]; rfl
    rw [step_write he, hostWrite_of_refused hw']
    rfl
  · have hw' : memWrite (s.withEvents es) addr width value = some (t.withEvents es) := by
      rw [memWrite_withEvents, hw]; rfl
    rw [step_write he, hostWrite_of_accepted hw']
    rfl

/-! ### The accesses while `BUSY = 1` -/

theorem wordLocation_eq_register_iff {a offset : Nat} :
    wordLocation a = some (.register offset) ↔ a = offset ∧ a % 4 = 0 ∧ a < 0x100 := by
  unfold wordLocation
  split_ifs <;> simp <;> omega

theorem byteLocation_ne_register (a offset : Nat) : byteLocation a ≠ some (.register offset) := by
  unfold byteLocation
  split_ifs <;> simp

/-- A register is named by the aligned word access at its offset, and by no other access (rules R80, R81). -/
theorem locationOf_eq_register_iff {addr : BitVec 20} {width offset : Nat} :
    locationOf addr width = some (.register offset)
      ↔ width = 4 ∧ addr.toNat = offset ∧ addr.toNat % 4 = 0 ∧ addr.toNat < 0x100 := by
  unfold locationOf
  split_ifs with h4 h1
  · simp only [wordLocation_eq_register_iff, h4, true_and]
  · simp only [byteLocation_ne_register, h4, false_and]
  · simp [h4]

theorem readableWhileBusy_iff (loc : Location) :
    readableWhileBusy loc = true ↔ loc = .register 0x00 ∨ loc = .register 0x08 := by
  cases loc <;> simp [readableWhileBusy]

theorem memRead_of_readable {s : State} {addr : BitVec 20} {width : Nat} {loc : Location}
    (hl : locationOf addr width = some loc) (hr : readableWhileBusy loc = true) :
    memRead s addr width = readLocation s loc := by
  simp [memRead, hl, hr]

theorem memRead_of_busy_eq_none {s : State} {addr : BitVec 20} {width : Nat} (hb : s.status.busy = true)
    (hr : ∀ loc, locationOf addr width = some loc → readableWhileBusy loc = false) : memRead s addr width = none := by
  unfold memRead
  cases hl : locationOf addr width with
  | none => rfl
  | some loc => simp [hb, hr loc hl]

theorem memWrite_of_busy {s : State} {addr : BitVec 20} {width : Nat} {value : Word} (hb : s.status.busy = true) :
    memWrite s addr width value = none := by
  rw [Option.eq_none_iff_forall_ne_some]
  intro t ht
  have hidle := (memWrite_cases ht).1
  simp [hb] at hidle

/-- Settles O50: the only locations readable while `BUSY = 1` are the registers at 0x00 and 0x08, which the word accesses
there name (rules R85, R34). -/
theorem busyHostSeesStatusAndIdOnly : Obligations.BusyHostSeesStatusAndIdOnly := by
  intro s addr width value hb
  refine ⟨memWrite_of_busy hb, ?_⟩
  split_ifs with hid hstatus
  · obtain ⟨hw, ha⟩ := hid
    have hl : locationOf addr width = some (.register 0x00) := locationOf_eq_register_iff.2 ⟨hw, ha, by omega, by omega⟩
    exact memRead_of_readable hl rfl
  · obtain ⟨hw, ha⟩ := hstatus
    have hl : locationOf addr width = some (.register 0x08) := locationOf_eq_register_iff.2 ⟨hw, ha, by omega, by omega⟩
    exact memRead_of_readable hl rfl
  · refine memRead_of_busy_eq_none hb fun loc hl => ?_
    rw [← Bool.not_eq_true, readableWhileBusy_iff]
    rintro (rfl | rfl)
    · obtain ⟨hw, ha, -, -⟩ := locationOf_eq_register_iff.1 hl
      exact hid ⟨hw, ha⟩
    · obtain ⟨hw, ha, -, -⟩ := locationOf_eq_register_iff.1 hl
      exact hstatus ⟨hw, ha⟩

end Sys2Proof.Machine
end

section
/-! PROOFS. The illegal words (rule R106): which words fail to decode, and how the engine ends on one. -/

namespace Sys2Proof

/-! ### The fields of a word as numbers (rule R100) -/

theorem opField_eq (w : Word) : opField w = w.toNat % 256 := by
  simp [opField, BitVec.extractLsb'_toNat]

theorem aField_eq (w : Word) : aField w = w.toNat / 256 % 16 := by
  simp [aField, BitVec.extractLsb'_toNat, Nat.shiftRight_eq_div_pow]

theorem bField_eq (w : Word) : bField w = w.toNat / 4096 % 16 := by
  simp [bField, BitVec.extractLsb'_toNat, Nat.shiftRight_eq_div_pow]

theorem zField_eq (w : Word) : zField w = w.toNat / 65536 := by
  simp [zField, BitVec.extractLsb'_toNat, Nat.shiftRight_eq_div_pow]
  omega

/-! ### Which operand fields make a word illegal -/

theorem noOperand_eq_error_iff (w : Word) (i : Instr) :
    (∃ e, noOperand w i = .error e) ↔ aField w ≠ 0 ∨ bField w ≠ 0 := by
  unfold noOperand
  split_ifs with h
  · simp [h]
  · simpa using not_and_or.1 h

theorem operandA_eq_error_iff (w : Word) (i : Nat → Instr) : (∃ e, operandA w i = .error e) ↔ bField w ≠ 0 := by
  unfold operandA
  split_ifs with h <;> simp [h]

theorem operandsAB_ne_error (w : Word) (i : Nat → Nat → Instr) (e : IllegalWord) : operandsAB w i ≠ .error e := by
  simp [operandsAB]

end Sys2Proof

namespace Sys2Proof.Machine

/-- The opcode alone says which of the fields `a` and `b` the command uses (rule R102): neither, `a`, or both. -/
theorem decodeOp_cases (w : Word) :
    (opField w ∉ opcodes ∧ decodeOp w = .error .unknownOp)
    ∨ (opField w ∈ opcodes ∧ opField w ∉ opcodesWithA ∧ opField w ∉ opcodesWithB ∧ ∃ i, decodeOp w = noOperand w i)
    ∨ (opField w ∈ opcodes ∧ opField w ∈ opcodesWithA ∧ opField w ∉ opcodesWithB ∧ ∃ i, decodeOp w = operandA w i)
    ∨ (opField w ∈ opcodes ∧ opField w ∈ opcodesWithA ∧ opField w ∈ opcodesWithB ∧ ∃ i, decodeOp w = operandsAB w i) := by
  unfold decodeOp
  split
  case h_30 =>
    refine .inl ⟨?_, rfl⟩
    simp only [opcodes, List.mem_cons, List.not_mem_nil, or_false, not_or]
    and_intros <;> assumption
  all_goals (rename_i h; simp [h, opcodes, opcodesWithA, opcodesWithB])

/-- Past the test of `z`, a word is illegal by its opcode or by a field its command does not use (rule R106). -/
theorem decodeOp_eq_error_iff (w : Word) :
    (∃ e, decodeOp w = .error e) ↔
      opField w ∉ opcodes ∨ (opField w ∉ opcodesWithA ∧ aField w ≠ 0) ∨ (opField w ∉ opcodesWithB ∧ bField w ≠ 0) := by
  rcases decodeOp_cases w with ⟨hop, h⟩ | ⟨hop, hA, hB, i, h⟩ | ⟨hop, hA, hB, i, h⟩ | ⟨hop, hA, hB, i, h⟩
  · simp [h, hop]
  · simp [h, noOperand_eq_error_iff, hop, hA, hB]
  · simp [h, operandA_eq_error_iff, hop, hA, hB]
  · simp [h, operandsAB_ne_error, hop, hA, hB]

/-- The words that do not decode are those rule R106 lists. -/
theorem isIllegal_iff_decode_eq_error (w : Word) : isIllegal w ↔ ∃ e, decode w = .error e := by
  unfold isIllegal decode
  rw [← opField_eq, ← zField_eq, ← aField_eq, ← bField_eq]
  split_ifs with hz
  · simp [decodeOp_eq_error_iff, hz]
  · simp [hz]

/-! ### The engine's turn on an illegal word -/

theorem engineStep_of_isIllegal {s : State} (hb : s.status.busy = true) (hw : isIllegal s.pending) :
    engineStep s = .next s.illegalCommand := by
  obtain ⟨e, he⟩ := (isIllegal_iff_decode_eq_error s.pending).1 hw
  simp only [engineStep, hb, he, if_true]

theorem illegalCommand_of_unlocked {s : State} (hf : s.status.fatal = false) :
    s.illegalCommand = s.reject .illegalCommand := by
  simp [State.illegalCommand, hf]

/-- Settles O4: the decoder's failures are the words rule R106 lists, by the classes of opcodes, and an unlocked engine
answers each with the rejection (rule R214). -/
theorem illegalWordsEndWithIllegalCommand : Obligations.IllegalWordsEndWithIllegalCommand := by
  refine ⟨isIllegal_iff_decode_eq_error, fun s hb hf hw => ?_⟩
  rw [engineStep_of_isIllegal hb hw, illegalCommand_of_unlocked hf]
  rfl

end Sys2Proof.Machine
end

section
/-! PROOFS. The grid planner (rules R121 to R131): a step draws exactly what its list of paints says, and `GP.ALL` is its
seven commands. -/

namespace Sys2Proof.Machine

open Sys2Proof.Claims

/-! ### A grid step from its paints -/

/-- The paints of a list stay left of column `side`, give each cell they hit the role, the offset and the colour asked for,
and hit every cell of `inside` and no other. -/
structure PaintsExactly (side : Nat) (ps : List Paint) (inside : Nat → Nat → Prop) (cell : Nat → Nat → Cell)
    (colour : Nat → Nat → Bool) : Prop where
  sound    : ∀ p ∈ ps, p.c < side ∧ inside p.r p.c ∧ (⟨p.role, .ofNat 15 p.off⟩ : Cell) = cell p.r p.c
    ∧ p.colour = colour p.r p.c
  complete : ∀ r c, inside r c → ∃ p ∈ ps, p.r = r ∧ p.c = c

theorem PlanShape.side_bounds {s : State} (h : PlanShape s) : 21 ≤ s.side ∧ s.side ≤ 177 := by
  have hlo := h.version_lo
  have hhi := h.version_hi
  have hside : s.side = 17 + 4 * s.plan.plancfg.version.toNat := h.side_eq
  omega

theorem PlanShape.side_le_stride {s : State} (h : PlanShape s) : s.side ≤ 8 * s.stride := by
  have hstride : s.stride = (s.side + 7) / 8 := h.stride_eq
  omega

/-- A list of paints that paints exactly `inside` draws it (rule R13). -/
theorem PaintsExactly.draws {s : State} (hs : PlanShape s) {ps : List Paint} {inside : Nat → Nat → Prop}
    {cell : Nat → Nat → Cell} {colour : Nat → Nat → Bool} (h : PaintsExactly s.side ps inside cell colour) :
    Draws s (s.paintAll ps) inside cell colour := by
  have hside := hs.side_bounds
  have hstride := hs.side_le_stride
  have hcol : ∀ p ∈ ps, p.c < 8 * s.stride := fun p hp => (h.sound p hp).1.trans_le hstride
  have hindex : ∀ p ∈ ps, ∀ r c, c < 256 → (cellIndex p.r p.c = cellIndex r c ↔ p.r = r ∧ p.c = c) := by
    intro p hp r c hc
    have hpc := (h.sound p hp).1
    exact cellIndex_inj (by omega) hc
  refine ⟨fun r c hc hin => ?_, fun r c hc hout => ?_, fun k r c hk hkn hc hin => ?_, fun k r c hk hc hout => ?_⟩
  · refine s.cell_paintAll_of_hit ps r c _ ?_ fun p hp he => ?_
    · obtain ⟨p, hp, hat⟩ := h.complete r c hin
      exact ⟨p, hp, (hindex p hp r c hc).2 hat⟩
    · obtain ⟨rfl, rfl⟩ := (hindex p hp r c hc).1 he
      obtain ⟨-, -, hcell, -⟩ := h.sound p hp
      exact hcell
  · refine s.cell_paintAll_of_not_hit ps r c fun p hp he => ?_
    obtain ⟨rfl, rfl⟩ := (hindex p hp r c hc).1 he
    obtain ⟨-, hin, -⟩ := h.sound p hp
    exact hout hin
  · refine s.tplPixel_paintAll_of_hit ps _ hk hkn hc hcol (h.complete r c hin) ?_
    rintro p hp ⟨rfl, rfl⟩
    obtain ⟨-, -, -, hcolour⟩ := h.sound p hp
    exact hcolour
  · refine s.tplPixel_paintAll_of_not_hit ps hk hc hcol ((le_or_gt s.ncopy k).imp id fun hkn p hp => ?_)
    rintro ⟨rfl, rfl⟩
    obtain ⟨-, hin, -⟩ := h.sound p hp
    exact hout ⟨hkn, hin⟩

/-- The engine is unlocked and the plan begun has come to `GPSTEP = k`. -/
structure AtGridStep (k : Fin 7) (s : State) : Prop where
  unlocked  : s.status.fatal = false
  gridInit  : s.status.gridInit = true
  gpstep_eq : s.status.gpstep = k

theorem atStep_eq_true_iff (k : Fin 7) (s : State) :
    atStep k s = true ↔ s.status.gridInit = true ∧ s.status.gpstep = k := by
  simp [atStep]

/-- A grid step in its own `GPSTEP` is its paints, concluded (rules R103, R108). -/
theorem AtGridStep.exec_eq {i : Instr} {before after : Fin 7} {s : State} {ps : List Paint} (h : AtGridStep before s)
    (hexec : exec i s = runCommand s (atStep before s) true true (effectOf i))
    (he : effectOf i s = .done (gridStep ps after s)) : exec i s = .next (gridStep ps after s).finish := by
  rw [hexec, (atStep_eq_true_iff before s).2 ⟨h.gridInit, h.gpstep_eq⟩, runCommand_ready h.unlocked, he]
  rfl

/-- A command whose effect is a `gridStep` of such paints is a grid step that draws them (rules R108, R120). -/
theorem PaintsExactly.isGridStep {i : Instr} {before after : Fin 7} {s : State} {ps : List Paint}
    {inside : Nat → Nat → Prop} {cell : Nat → Nat → Cell} {colour : Nat → Nat → Bool}
    (h : PaintsExactly s.side ps inside cell colour) (hf : s.status.fatal = false) (hs : PlanShape s)
    (hexec : exec i s = runCommand s (atStep before s) true true (effectOf i))
    (he : effectOf i s = .done (gridStep ps after s)) :
    GridStep i before after s inside cell colour := by
  refine ⟨fun hg hk => ⟨(gridStep ps after s).finish, ?_, ?_, ?_⟩, fun hn => ?_⟩
  · exact AtGridStep.exec_eq ⟨hf, hg, hk⟩ hexec he
  · rw [gridStep_sameButGridStep ps after s]
    rfl
  · obtain ⟨hcells, hothers, hmodules, hunpainted⟩ := h.draws hs
    exact ⟨hcells, hothers, hmodules, hunpainted⟩
  · rw [← atStep_eq_true_iff, Bool.not_eq_true] at hn
    rw [hexec, hn, runCommand_badState hf]
    rfl

/-! ### `GP.TIMING` (rule R122) -/

theorem mem_timingPaints {side : Nat} {p : Paint} :
    p ∈ timingPaints side ↔
      ∃ i < side, p = ⟨i, 6, .timing, 0, i % 2 == 0⟩ ∨ p = ⟨6, i, .timing, 0, i % 2 == 0⟩ := by
  simp [timingPaints]

theorem timingPaints_exact {side : Nat} (h : 21 ≤ side) :
    PaintsExactly side (timingPaints side) (fun r c => (r = 6 ∧ c < side) ∨ (c = 6 ∧ r < side)) (fun _ _ => ⟨.timing, 0⟩)
      (fun r c => if r = 6 then c % 2 == 0 else r % 2 == 0) where
  sound p hp := by
    obtain ⟨i, hi, rfl | rfl⟩ := mem_timingPaints.1 hp
    · refine ⟨by show 6 < side; omega, .inr ⟨rfl, hi⟩, rfl, ?_⟩
      by_cases h6 : i = 6
      · subst h6; rfl
      · simp [h6]
    · exact ⟨hi, .inl ⟨rfl, hi⟩, rfl, rfl⟩
  complete r c hin := by
    rcases hin with ⟨rfl, hc⟩ | ⟨rfl, hr⟩
    · exact ⟨_, mem_timingPaints.2 ⟨c, hc, .inr rfl⟩, rfl, rfl⟩
    · exact ⟨_, mem_timingPaints.2 ⟨r, hr, .inl rfl⟩, rfl, rfl⟩

/-- Settles O15: the paints of `GP.TIMING` hit row 6 and column 6, and agree where the two cross. -/
theorem gpTimingDrawsRowAndColumnSix : Obligations.GpTimingDrawsRowAndColumnSix := fun _ hf hs =>
  (timingPaints_exact hs.side_bounds.1).isGridStep hf hs rfl rfl

/-! ### `GP.FINDER` (rules R123, R124) -/

/-- The colour of a finder module at distance `d` from its centre: rings 0, 1 and 3 are black. -/
def ringBlack (d : Nat) : Bool := d == 0 || d == 1 || d == 3

theorem mem_finderSpan (d : Int) : d ∈ finderSpan ↔ -1 ≤ d ∧ d ≤ 7 := by
  simp only [finderSpan, List.mem_cons, List.not_mem_nil, or_false]
  omega

/-- `findercolour` of rule R124 goes by the distance from the centre of the box. -/
theorem finderColour_eq_ringBlack (r0 c0 : Int) (r c : Nat) :
    finderColour (r - r0) (c - c0) = ringBlack (ring (r0 + 3, c0 + 3) r c) := by
  rw [Bool.eq_iff_iff]
  simp only [finderColour, ringBlack, ring, Bool.or_eq_true, Bool.and_eq_true, decide_eq_true_eq, beq_iff_eq]
  omega

theorem mem_finderBox {side : Nat} {r0 c0 : Int} {p : Paint} :
    p ∈ finderBox side r0 c0 ↔
      p.r < side ∧ p.c < side ∧ ring (r0 + 3, c0 + 3) p.r p.c ≤ 4
        ∧ p = ⟨p.r, p.c, .position, 0, ringBlack (ring (r0 + 3, c0 + 3) p.r p.c)⟩ := by
  simp only [finderBox, List.mem_flatMap, List.mem_filterMap, mem_finderSpan, Option.ite_none_right_eq_some,
    Option.some.injEq]
  constructor
  · rintro ⟨dr, hdr, dc, hdc, ⟨hr, hr', hc, hc'⟩, rfl⟩
    have hcolour := finderColour_eq_ringBlack r0 c0 (r0 + dr).toNat (c0 + dc).toNat
    rw [Int.toNat_of_nonneg hr, Int.toNat_of_nonneg hc, add_sub_cancel_left, add_sub_cancel_left] at hcolour
    refine ⟨by dsimp only; omega, by dsimp only; omega, by simp only [ring]; omega, by rw [hcolour]⟩
  · rintro ⟨hr, hc, hring, hp⟩
    simp only [ring] at hring
    refine ⟨p.r - r0, by omega, p.c - c0, by omega, by omega, ?_⟩
    rw [hp, finderColour_eq_ringBlack]
    simp

theorem mem_finderPaints {side : Nat} {p : Paint} :
    p ∈ finderPaints side ↔
      p.r < side ∧ p.c < side ∧ ∃ centre ∈ finderCentres side, ring centre p.r p.c ≤ 4
        ∧ p = ⟨p.r, p.c, .position, 0, ringBlack (ring centre p.r p.c)⟩ := by
  have hcentre : (side : Int) - 7 + 3 = side - 4 := by ring
  simp only [finderPaints, List.mem_append, mem_finderBox, hcentre, zero_add, finderCentres, List.exists_mem_cons_iff,
    List.not_mem_nil, false_and, exists_false, or_false]
  tauto

/-- The three finder patterns with their borders do not overlap. -/
theorem finderCentre_unique {side : Nat} (h : 21 ≤ side) {p q : Int × Int} (hp : p ∈ finderCentres side)
    (hq : q ∈ finderCentres side) {r c : Nat} (hpr : ring p r c ≤ 4) (hqr : ring q r c ≤ 4) : p = q := by
  simp only [finderCentres, List.mem_cons, List.not_mem_nil, or_false] at hp hq
  simp only [ring] at hpr hqr
  rcases hp with rfl | rfl | rfl <;> rcases hq with rfl | rfl | rfl <;>
    simp only [Prod.mk.injEq] <;> omega

theorem finderPaints_exact {side : Nat} (h : 21 ≤ side) :
    PaintsExactly side (finderPaints side)
      (fun r c => r < side ∧ c < side ∧ ∃ p ∈ finderCentres side, ring p r c ≤ 4) (fun _ _ => ⟨.position, 0⟩)
      (fun r c => (finderCentres side).any fun p => ringBlack (ring p r c)) where
  sound p hp := by
    obtain ⟨hr, hc, centre, hcentre, hring, hpaint⟩ := mem_finderPaints.1 hp
    refine ⟨hc, ⟨hr, hc, centre, hcentre, hring⟩, ?_, ?_⟩
    · rw [hpaint]; rfl
    have hcolour : p.colour = ringBlack (ring centre p.r p.c) := by rw [hpaint]
    rw [hcolour, Bool.eq_iff_iff, List.any_eq_true]
    refine ⟨fun hb => ⟨centre, hcentre, hb⟩, ?_⟩
    rintro ⟨q, hq, hb⟩
    have hqr : ring q p.r p.c ≤ 4 := by
      simp only [ringBlack, Bool.or_eq_true, beq_iff_eq] at hb
      omega
    rwa [finderCentre_unique h hcentre hq hring hqr]
  complete r c hin := by
    obtain ⟨hr, hc, centre, hcentre, hring⟩ := hin
    exact ⟨⟨r, c, .position, 0, ringBlack (ring centre r c)⟩,
      mem_finderPaints.2 ⟨hr, hc, centre, hcentre, hring, rfl⟩, rfl, rfl⟩

/-- Settles O16: the paints of a finder box are the in-bounds modules within four rings of its centre, and the three boxes
are disjoint. -/
theorem gpFinderDrawsThreeRingedBoxes : Obligations.GpFinderDrawsThreeRingedBoxes := fun _ hf hs =>
  (finderPaints_exact hs.side_bounds.1).isGridStep hf hs rfl rfl

/-! ### `GP.VERINFO` (rule R127) -/

theorem mem_verinfoPaints {side version : Nat} {vpat : BitVec 18} {p : Paint} :
    p ∈ verinfoPaints side version vpat ↔
      7 ≤ version ∧ ∃ x < 6, ∃ y < 3, p = ⟨side - 11 + y, x, .versionPattern, 0, vpat.getLsbD (3 * x + y)⟩
        ∨ p = ⟨x, side - 11 + y, .versionPattern, 0, vpat.getLsbD (3 * x + y)⟩ := by
  unfold verinfoPaints
  split_ifs with hv
  · simp only [hv, true_and, List.mem_flatMap, List.mem_range, List.mem_cons, List.not_mem_nil, or_false]
    constructor
    · rintro ⟨i, hi, hp⟩
      exact ⟨i / 3, by omega, i % 3, by omega, by rwa [Nat.div_add_mod]⟩
    · rintro ⟨x, hx, y, hy, hp⟩
      refine ⟨3 * x + y, by omega, ?_⟩
      rwa [show (3 * x + y) / 3 = x by omega, show (3 * x + y) % 3 = y by omega]
  · simp [hv]

theorem verinfoPaints_exact {side version : Nat} (vpat : BitVec 18) (h : side = 17 + 4 * version) :
    PaintsExactly side (verinfoPaints side version vpat)
      (fun r c => 7 ≤ version
        ∧ ((side - 11 ≤ r ∧ r < side - 8 ∧ c < 6) ∨ (side - 11 ≤ c ∧ c < side - 8 ∧ r < 6)))
      (fun _ _ => ⟨.versionPattern, 0⟩)
      (fun r c => vpat.getLsbD (if c < 6 then 3 * c + (r - (side - 11)) else 3 * r + (c - (side - 11)))) where
  sound p hp := by
    obtain ⟨hv, x, hx, y, hy, rfl | rfl⟩ := mem_verinfoPaints.1 hp
    · refine ⟨by dsimp only; omega, ⟨hv, .inl (by dsimp only; omega)⟩, rfl, ?_⟩
      dsimp only
      rw [if_pos hx, Nat.add_sub_cancel_left]
    · refine ⟨by dsimp only; omega, ⟨hv, .inr (by dsimp only; omega)⟩, rfl, ?_⟩
      dsimp only
      rw [if_neg (by omega), Nat.add_sub_cancel_left]
  complete r c hin := by
    obtain ⟨hv, ⟨hr, hr', hc⟩ | ⟨hc, hc', hr⟩⟩ := hin
    · exact ⟨_, mem_verinfoPaints.2 ⟨hv, c, hc, r - (side - 11), by omega, .inl rfl⟩, by dsimp only; omega, rfl⟩
    · exact ⟨_, mem_verinfoPaints.2 ⟨hv, r, hr, c - (side - 11), by omega, .inr rfl⟩, rfl, by dsimp only; omega⟩

/-- Settles O19: with `SIDE = 17 + 4·VERSION ≥ 45` the two blocks are disjoint, so that the column tells them apart. -/
theorem gpVerinfoDrawsTwoMirroredBlocks : Obligations.GpVerinfoDrawsTwoMirroredBlocks := fun s hf hs =>
  (verinfoPaints_exact s.capEntry.vpat hs.side_eq).isGridStep hf hs rfl rfl

/-! ### `GP.FMTRSV` (rules R128, R129) -/

theorem mem_fmtrsvPaints {side : Nat} {p : Paint} :
    p ∈ fmtrsvPaints side ↔
      ∃ i < 15, p = ⟨(fmtA i).1, (fmtA i).2, .format, i, false⟩
        ∨ p = ⟨(fmtB side i).1, (fmtB side i).2, .format, i, false⟩ := by
  simp [fmtrsvPaints]

theorem formatA_getElem? (i : Nat) : formatA[i]? = if i < 15 then some (fmtA i) else none := by
  split_ifs with h
  · interval_cases i <;> rfl
  · exact List.getElem?_eq_none (Nat.not_lt.1 h)

theorem formatB_getElem? {side : Nat} (hs : 15 ≤ side) (i : Nat) :
    (formatB side)[i]? = if i < 15 then some (fmtB side i) else none := by
  split_ifs with h
  · interval_cases i <;> simp [formatB, fmtB] <;> omega
  · exact List.getElem?_eq_none (Nat.not_lt.1 h)

/-- The placeholders of the table of rule R129 are the cells of `fmtA` and `fmtB`. -/
theorem isFormatCell_iff {side : Nat} (hs : 15 ≤ side) (i r c : Nat) :
    IsFormatCell side i r c ↔ i < 15 ∧ (fmtA i = (r, c) ∨ fmtB side i = (r, c)) := by
  unfold IsFormatCell
  rw [formatA_getElem?, formatB_getElem? hs]
  split_ifs with h <;> simp [h]

theorem isFormatCell_column_lt {side i r c : Nat} (hs : 21 ≤ side) (h : IsFormatCell side i r c) : c < side := by
  obtain ⟨hi, h⟩ := (isFormatCell_iff (by omega) i r c).1 h
  simp only [fmtA, fmtB] at h
  split_ifs at h <;> simp only [Prod.mk.injEq] at h <;> omega

/-- A cell is a placeholder of one bit only. -/
theorem isFormatCell_unique {side i j r c : Nat} (hs : 21 ≤ side) (hi : IsFormatCell side i r c)
    (hj : IsFormatCell side j r c) : i = j := by
  obtain ⟨hi15, hi⟩ := (isFormatCell_iff (by omega) i r c).1 hi
  obtain ⟨hj15, hj⟩ := (isFormatCell_iff (by omega) j r c).1 hj
  simp only [fmtA, fmtB] at hi hj
  split_ifs at hi hj <;> simp only [Prod.mk.injEq] at hi hj <;> omega

/-- The bit cell `(r, c)` is a placeholder of; 0 where it is none. -/
def formatBit (side r c : Nat) : Nat :=
  ((List.range 15).find? fun i => fmtA i = (r, c) ∨ fmtB side i = (r, c)).getD 0

theorem formatBit_eq_of_isFormatCell {side i r c : Nat} (hs : 21 ≤ side) (h : IsFormatCell side i r c) :
    formatBit side r c = i := by
  obtain ⟨hi, hat⟩ := (isFormatCell_iff (by omega) i r c).1 h
  have hfind : (List.range 15).find? (fun j => fmtA j = (r, c) ∨ fmtB side j = (r, c)) = some i := by
    rw [List.find?_range_eq_some]
    refine ⟨by simpa using hat, by simpa using hi, fun j hj => ?_⟩
    have hn : ¬ (fmtA j = (r, c) ∨ fmtB side j = (r, c)) := fun hat' => by
      have := isFormatCell_unique hs h ((isFormatCell_iff (by omega) j r c).2 ⟨by omega, hat'⟩)
      omega
    simpa using hn
  rw [formatBit, hfind, Option.getD_some]

theorem fmtrsvPaints_exact {side : Nat} (h : 21 ≤ side) :
    PaintsExactly side (fmtrsvPaints side) (fun r c => ∃ i, IsFormatCell side i r c)
      (fun r c => ⟨.format, .ofNat 15 (formatBit side r c)⟩) (fun _ _ => false) where
  sound p hp := by
    obtain ⟨i, hi, hp⟩ := mem_fmtrsvPaints.1 hp
    have hat : IsFormatCell side i p.r p.c := by
      rw [isFormatCell_iff (by omega)]
      rcases hp with rfl | rfl
      · exact ⟨hi, .inl rfl⟩
      · exact ⟨hi, .inr rfl⟩
    refine ⟨isFormatCell_column_lt h hat, ⟨i, hat⟩, ?_, ?_⟩
    · rw [formatBit_eq_of_isFormatCell h hat]
      rcases hp with rfl | rfl <;> rfl
    · rcases hp with rfl | rfl <;> rfl
  complete r c hin := by
    obtain ⟨i, hat⟩ := hin
    obtain ⟨hi, hA | hB⟩ := (isFormatCell_iff (by omega) i r c).1 hat
    · exact ⟨_, mem_fmtrsvPaints.2 ⟨i, hi, .inl rfl⟩, by simp [hA]⟩
    · exact ⟨_, mem_fmtrsvPaints.2 ⟨i, hi, .inr rfl⟩, by simp [hB]⟩

/-- Settles O20: no cell is a placeholder of two bits, so the role and offset of each are those of its own bit. -/
theorem gpFmtrsvReservesBothCopies : Obligations.GpFmtrsvReservesBothCopies := by
  intro s hf hs
  obtain ⟨hlo, hhi⟩ := hs.side_bounds
  have hstride := hs.side_le_stride
  obtain ⟨hdrawn, hbad⟩ : GridStep .gpFmtrsv 4 5 s _ _ _ := (fmtrsvPaints_exact hlo).isGridStep hf hs rfl rfl
  refine ⟨fun hg hk => ?_, hbad⟩
  obtain ⟨t, ht, hframe, hcells, hothers, hmodules, hunpainted⟩ := hdrawn hg hk
  refine ⟨t, ht, hframe, fun i r c hat => ?_, fun r c hc hout => ?_, fun k i r c hk hkn hat => ?_, hunpainted⟩
  · have hc := isFormatCell_column_lt hlo hat
    rw [hcells r c (by omega) ⟨i, hat⟩, formatBit_eq_of_isFormatCell hlo hat]
  · exact hothers r c hc (not_exists.2 hout)
  · exact hmodules k r c hk hkn ((isFormatCell_column_lt hlo hat).trans_le hstride) ⟨i, hat⟩

/-! ### `GP.DARK` (rule R130) -/

theorem darkPaints_exact {side : Nat} (h : 21 ≤ side) :
    PaintsExactly side (darkPaints side) (fun r c => r = side - 8 ∧ c = 8) (fun _ _ => ⟨.unused, 0⟩) (fun _ _ => true) where
  sound p hp := by
    obtain rfl : p = ⟨side - 8, 8, .unused, 0, true⟩ := by simpa [darkPaints] using hp
    exact ⟨by dsimp only; omega, ⟨rfl, rfl⟩, rfl, rfl⟩
  complete r c hin := by
    obtain ⟨rfl, rfl⟩ := hin
    exact ⟨_, List.mem_singleton.2 rfl, rfl, rfl⟩

/-- Settles O21: `GP.DARK` has one paint. -/
theorem gpDarkDrawsOneModule : Obligations.GpDarkDrawsOneModule := fun _ hf hs =>
  (darkPaints_exact hs.side_bounds.1).isGridStep hf hs rfl rfl

/-! ### `GP.INIT` (rule R121) -/

/-- The banks after `GP.INIT`'s clearing of the first `n` templates. -/
theorem getElem?_clearTemplates (n len k : Nat) (tpl : Templates) :
    (clearTemplates n len tpl)[k]? =
      if k < n then tpl[k]?.map fun m => Memory.writeList m (List.replicate len 0) else tpl[k]? := by
  unfold clearTemplates
  induction n with
  | zero => simp
  | succ n ih =>
    rw [List.range_succ, List.foldl_append, List.foldl_cons, List.foldl_nil, Vector.getElem?_setIfInBounds]
    by_cases hkn : n = k
    · subst hkn
      rw [ih, if_pos rfl, if_neg (lt_irrefl n), if_pos (Nat.lt_succ_self n)]
      by_cases hn : n < 8 <;> simp [hn]
    · rw [if_neg hkn, ih]
      have hlt : k < n + 1 ↔ k < n := by omega
      simp only [hlt]

@[simp] theorem gpInit_side (n : Nat) (s : State) : (gpInit n s).side = 17 + 4 * s.cfg.version.toNat := by
  simp only [gpInit, State.side, BitVec.toNat_ofNat]
  omega

@[simp] theorem gpInit_stride (n : Nat) (s : State) :
    (gpInit n s).stride = (17 + 4 * s.cfg.version.toNat + 7) / 8 := by
  simp only [gpInit, State.stride, BitVec.toNat_ofNat]
  omega

theorem gpInit_ncopy {n : Nat} (s : State) (hn : n < 2 ^ 32) : (gpInit n s).ncopy = n := by
  simp only [gpInit, State.ncopy, BitVec.toNat_ofNat, Nat.mod_eq_of_lt hn]

theorem gpInit_cell (n : Nat) {s : State} (hv : s.cfg.version.toNat ≤ 40) {r c : Nat} (hc : c < 256) :
    (gpInit n s).cell r c =
      if r < (gpInit n s).side ∧ c < (gpInit n s).side then Cell.blank else s.cell r c := by
  have hgrid : (gpInit n s).grid = clearGrid (gpInit n s).side s.grid := by rw [gpInit_side]; rfl
  have hside : (gpInit n s).side ≤ 256 := by rw [gpInit_side]; omega
  unfold State.cell
  rw [hgrid, get?_clearGrid _ _ _ _ hside hc]
  split_ifs <;> rfl

theorem gpInit_tplByte (n : Nat) (s : State) {k : Nat} (j : Nat) (hk : k < 8) :
    (gpInit n s).tplByte k j =
      if k < n ∧ j < (gpInit n s).stride * (gpInit n s).side then 0 else s.tplByte k j := by
  have hbank : (gpInit n s).bank k =
      if k < n then Memory.writeList (s.bank k) (List.replicate ((gpInit n s).stride * (gpInit n s).side) 0)
      else s.bank k := by
    show (clearTemplates n _ s.tpl)[k]?.getD [] = _
    rw [getElem?_clearTemplates, gpInit_side, gpInit_stride]
    unfold State.bank
    split_ifs <;> simp [hk]
  unfold State.tplByte
  rw [hbank]
  by_cases hkn : k < n
  · rw [if_pos hkn, byteAt_writeList]
    simp only [List.length_replicate, List.getElem_replicate, hkn, true_and, dite_eq_ite]
    rfl
  · simp only [hkn, if_false, false_and]
    rfl

theorem parametersInRange_gpInit_iff (n : Nat) (s : State) :
    parametersInRange (.gpInit n) s = true ↔
      1 ≤ s.cfg.version.toNat ∧ s.cfg.version.toNat ≤ 40 ∧ (n = 1 ∨ n = 8) := by
  simp [parametersInRange, and_assoc]

/-- A command without a state precondition is rejected for its parameters (rules R211, R212). -/
theorem exec_invalidParameter {i : Instr} (hi : i ≠ .reset) {s : State} (hf : s.status.fatal = false)
    (hpre : precondition i s = true) (hparam : ¬ parametersInRange i s = true) :
    exec i s = .next (rejected s .invalidParameter) := by
  rw [Bool.not_eq_true] at hparam
  rw [exec_eq hi, hpre, hparam, runCommand_invalidParameter hf]
  rfl

/-- Settles O14: the registers are those `gpInit` writes, and the clearings reach `SIDE` rows and columns of the grid and
`STRIDE · SIDE` bytes of each of the `n` templates. -/
theorem gpInitClearsGridAndTemplates : Obligations.GpInitClearsGridAndTemplates := by
  intro n s hf
  refine ⟨fun hlo hhi hn => ⟨(gpInit n s).finish, ?_, rfl, gpInit_side n s, ?_, gpInit_ncopy s (by omega), ?_, ?_⟩,
    fun hbad => ?_⟩
  · exact exec_of_ready (i := .gpInit n) nofun ⟨hf, rfl, (parametersInRange_gpInit_iff n s).2 ⟨hlo, hhi, hn⟩, rfl⟩
  · exact (gpInit_stride n s).trans (by rw [← gpInit_side n s]; rfl)
  · exact fun r c hc => gpInit_cell n hhi hc
  · exact fun k j hk => gpInit_tplByte n s j hk
  · exact exec_invalidParameter (i := .gpInit n) nofun hf rfl ((parametersInRange_gpInit_iff n s).not.2 hbad)

/-! ### `GP.ALL` (rule R131) -/

/-- Painting does not see how the last command ended. -/
theorem paintAll_finish (s : State) (ps : List Paint) : s.finish.paintAll ps = (s.paintAll ps).finish := by
  have hpaint : ∀ (u : State) (p : Paint), u.finish.paint p = (u.paint p).finish :=
    fun u p => List.foldl_hom State.finish (l := List.range u.ncopy)
      (init := { u with grid := Memory.set u.grid (cellIndex p.r p.c) ⟨p.role, .ofNat 15 p.off⟩ }) fun _ _ => rfl
  exact List.foldl_hom State.finish hpaint

theorem gridStep_finish (ps : List Paint) (k : Fin 7) (s : State) :
    gridStep ps k s.finish = (gridStep ps k s).finish := by
  unfold gridStep
  rw [paintAll_finish]
  rfl

theorem AtGridStep.after_gridStep {k : Fin 7} {s : State} (h : AtGridStep k s) (ps : List Paint) (k' : Fin 7) :
    AtGridStep k' (gridStep ps k' s) where
  unlocked := (gridStep_keeps ps k' s).fatal.trans h.unlocked
  gridInit := by rw [gridStep_sameButGridStep ps k' s]; exact h.gridInit
  gpstep_eq := rfl

theorem AtGridStep.finish {k : Fin 7} {s : State} (h : AtGridStep k s) : AtGridStep k s.finish :=
  ⟨h.unlocked, h.gridInit, h.gpstep_eq⟩

/-- A grid step at the head of a chain that follows another command: its effect is that of the step in a composite. -/
theorem AtGridStep.chain_cons {i : Instr} {is : List Instr} {before after : Fin 7} {s t : State} {ps : List Paint}
    (h : AtGridStep before s)
    (hexec : exec i s.finish = runCommand s.finish (atStep before s.finish) true true (effectOf i))
    (he : effectOf i s.finish = .done (gridStep ps after s.finish))
    (hrest : AtGridStep after (gridStep ps after s) → Chain is (gridStep ps after s).finish t) :
    Chain (i :: is) s.finish t := by
  refine ⟨_, h.finish.exec_eq hexec he, rfl, ?_⟩
  rw [gridStep_finish]
  exact hrest (h.after_gridStep ps after)

section

variable {is : List Instr} {s t : State}

theorem AtGridStep.chain_gpTiming (h : AtGridStep 0 s)
    (hrest : AtGridStep 1 (gpTiming s) → Chain is (gpTiming s).finish t) : Chain (.gpTiming :: is) s.finish t :=
  h.chain_cons rfl rfl hrest

theorem AtGridStep.chain_gpFinder (h : AtGridStep 1 s)
    (hrest : AtGridStep 2 (gpFinder s) → Chain is (gpFinder s).finish t) : Chain (.gpFinder :: is) s.finish t :=
  h.chain_cons rfl rfl hrest

theorem AtGridStep.chain_gpAlign {u : State} (h : AtGridStep 2 s) (hu : gpAlign s = .done u)
    (hrest : AtGridStep 3 u → Chain is u.finish t) : Chain (.gpAlign :: is) s.finish t := by
  obtain ⟨coords, hcoords, rfl⟩ := gpAlign_done hu
  have he : gpAlign s.finish = .done (gridStep (alignPaints s.side coords) 3 s.finish) := by
    have hcoords' : alignCoords s.finish.capEntry s.finish.side = some coords := hcoords
    unfold gpAlign
    rw [hcoords']
    rfl
  exact h.chain_cons rfl he hrest

theorem AtGridStep.chain_gpVerinfo (h : AtGridStep 3 s)
    (hrest : AtGridStep 4 (gpVerinfo s) → Chain is (gpVerinfo s).finish t) : Chain (.gpVerinfo :: is) s.finish t :=
  h.chain_cons rfl rfl hrest

theorem AtGridStep.chain_gpFmtrsv (h : AtGridStep 4 s)
    (hrest : AtGridStep 5 (gpFmtrsv s) → Chain is (gpFmtrsv s).finish t) : Chain (.gpFmtrsv :: is) s.finish t :=
  h.chain_cons rfl rfl hrest

theorem AtGridStep.chain_gpDark (h : AtGridStep 5 s)
    (hrest : AtGridStep 6 (gpDark s) → Chain is (gpDark s).finish t) : Chain (.gpDark :: is) s.finish t :=
  h.chain_cons rfl rfl hrest

end

/-- Settles O22: the end of a command, which `GP.ALL` leaves out between its parts, is not seen by the next grid step. -/
theorem gpAllIsItsSevenCommands : Obligations.GpAllIsItsSevenCommands := by
  intro n s hf
  refine ⟨fun hlo hhi hn halign => ?_,
    fun hbad => exec_invalidParameter (i := .gpAll n) nofun hf rfl ((parametersInRange_gpInit_iff n s).not.2 hbad)⟩
  have hparam := (parametersInRange_gpInit_iff n s).2 ⟨hlo, hhi, hn⟩
  obtain ⟨t, ht⟩ := gpAll_isDone n halign
  have hall : exec (.gpAll n) s = .next t.finish :=
    (exec_of_ready (i := .gpAll n) nofun ⟨hf, rfl, hparam, rfl⟩).trans (congrArg (conclude s) ht)
  obtain ⟨hframe, hstep⟩ := gpAll_frame ht
  refine ⟨t.finish, hall, ?_, by rw [hframe]; rfl, hstep⟩
  have hinit : exec (.gpInit n) s = .next (gpInit n s).finish :=
    exec_of_ready (i := .gpInit n) nofun ⟨hf, rfl, hparam, rfl⟩
  have h0 : AtGridStep 0 (gpInit n s) := ⟨hf, rfl, rfl⟩
  obtain ⟨u, hu, rfl⟩ := gpAll_done ht
  refine ⟨_, hinit, rfl, ?_⟩
  exact h0.chain_gpTiming fun h1 => h1.chain_gpFinder fun h2 => h2.chain_gpAlign hu fun h3 =>
    h3.chain_gpVerinfo fun h4 => h4.chain_gpFmtrsv fun h5 => h5.chain_gpDark fun _ => rfl

end Sys2Proof.Machine
end

section
/-! PROOFS. The order of the sweep (rule R144): the visits in closed form, every cell outside column 6 once. -/

namespace Sys2Proof.Machine

open Sys2Proof.Claims

/-! ### Lists in pieces of one length -/

/-- Entry `j` of the `i`-th piece of a list put together from pieces of one length. -/
theorem getElem?_flatMap_const {α β : Type} (l : List α) (f : α → List β) {n : Nat} (h : ∀ a ∈ l, (f a).length = n)
    (i : Nat) {j : Nat} (hj : j < n) : (l.flatMap f)[n * i + j]? = l[i]?.bind fun a => (f a)[j]? := by
  induction l generalizing i with
  | nil => rfl
  | cons a l ih =>
    have ha : (f a).length = n := h a (by simp)
    rw [List.flatMap_cons]
    cases i with
    | zero => rw [Nat.mul_zero, Nat.zero_add, List.getElem?_append_left (by omega)]; rfl
    | succ i =>
      have hge : n * (i + 1) + j = (f a).length + (n * i + j) := by rw [ha, Nat.mul_succ]; omega
      rw [hge, List.getElem?_append_right (by omega), Nat.add_sub_cancel_left,
        ih (fun b hb => h b (by simp [hb])) i, List.getElem?_cons_succ]

/-! ### The visits of the sweep -/

/-- One more than the right column of the `k`-th column pair; left of column 7 the pairs stand one further left, since
column 6 is left out (rule R144). -/
def pairEdge (side k : Nat) : Nat := if 7 < side - 2 * k then side - 2 * k else side - 2 * k - 1

/-- The pairs of the sweep from the `k`-th on: upward first, then alternating. -/
theorem sweepPairs_eq {n : Nat} (hn : 4 ≤ n) (fuel k : Nat) (hk : k ≤ n) (hfuel : n ≤ fuel + k) :
    sweepPairs fuel (pairEdge (2 * n + 1) k) (k % 2 == 0)
      = (List.range' k (n - k)).map fun j => (pairEdge (2 * n + 1) j, j % 2 == 0) := by
  induction fuel generalizing k with
  | zero =>
    obtain rfl : k = n := by omega
    simp [sweepPairs]
  | succ fuel ih =>
    have hedge : pairEdge (2 * n + 1) k = if k + 3 < n then 2 * (n - k) + 1 else 2 * (n - k) := by
      unfold pairEdge; split_ifs <;> omega
    obtain rfl | hlt := Nat.eq_or_lt_of_le hk
    · simp [sweepPairs, hedge]
    · have hnext : (if pairEdge (2 * n + 1) k - 2 = 7 then 6 else pairEdge (2 * n + 1) k - 2)
          = pairEdge (2 * n + 1) (k + 1) := by
        unfold pairEdge; split_ifs <;> omega
      have hturn : (!(k % 2 == 0)) = ((k + 1) % 2 == 0) := by
        rw [Bool.eq_iff_iff]; simp; omega
      have hpos : 0 < pairEdge (2 * n + 1) k := by rw [hedge]; split_ifs <;> omega
      rw [sweepPairs, if_pos hpos, hnext, hturn, ih (k + 1) hlt (by omega), show n - k = n - (k + 1) + 1 by omega,
        List.range'_succ, List.map_cons]

theorem length_sweepRows (side : Nat) (up : Bool) : (sweepRows side up).length = side := by
  cases up <;> simp [sweepRows]

theorem getElem?_sweepRows {side q : Nat} (up : Bool) (hq : q < side) :
    (sweepRows side up)[q]? = some (if up then side - 1 - q else q) := by
  cases up with
  | false => simp [sweepRows, hq]
  | true => simp [sweepRows, hq]

/-- The visits of one pair: row by row, the right column first. -/
def pairVisits (side : Nat) (p : Nat × Bool) : List (Nat × Nat) :=
  (sweepRows side p.2).flatMap fun y => [(y, p.1 - 1), (y, p.1 - 2)]

theorem length_pairVisits (side : Nat) (p : Nat × Bool) : (pairVisits side p).length = 2 * side := by
  rw [pairVisits, length_flatMap_const (n := 2) _ _ fun _ _ => rfl, length_sweepRows]

theorem sweepOrder_eq {n : Nat} (hn : 4 ≤ n) :
    sweepOrder (2 * n + 1)
      = ((List.range n).map fun k => (pairEdge (2 * n + 1) k, k % 2 == 0)).flatMap (pairVisits (2 * n + 1)) := by
  have hstart : pairEdge (2 * n + 1) 0 = 2 * n + 1 := by unfold pairEdge; rw [if_pos (by omega)]; rfl
  have h := sweepPairs_eq hn (2 * n + 1) 0 (by omega) (by omega)
  rw [hstart, Nat.sub_zero, ← List.range_eq_range'] at h
  rw [← h]
  rfl

theorem length_sweepOrder {n : Nat} (hn : 4 ≤ n) : (sweepOrder (2 * n + 1)).length = (2 * n + 1) * (2 * n) := by
  rw [sweepOrder_eq hn, length_flatMap_const _ _ _ fun p _ => length_pairVisits _ p, List.length_map, List.length_range]
  ring

/-- The visit to the right (`b = 0`) or the left (`b = 1`) column of the `k`-th pair in its `q`-th row. -/
theorem getElem?_sweepOrder {n k q b : Nat} (hn : 4 ≤ n) (hk : k < n) (hq : q < 2 * n + 1) (hb : b < 2) :
    (sweepOrder (2 * n + 1))[2 * (2 * n + 1) * k + (2 * q + b)]?
      = some (if k % 2 = 0 then 2 * n + 1 - 1 - q else q, pairEdge (2 * n + 1) k - 1 - b) := by
  rw [sweepOrder_eq hn, getElem?_flatMap_const _ _ (fun p _ => length_pairVisits _ p) k (by omega)]
  simp only [List.getElem?_map, List.getElem?_range hk, Option.map_some, Option.bind_some]
  rw [pairVisits, getElem?_flatMap_const (n := 2) _ _ (fun _ _ => rfl) q hb, getElem?_sweepRows _ hq, Option.bind_some]
  obtain rfl | rfl : b = 0 ∨ b = 1 := by omega
  · simp
  · simp [Nat.sub_sub]

/-- Settles O25: a cell's column gives its pair and its side of the pair, its row the place within the pair. -/
theorem sweepVisitsEveryCellInOrder : Obligations.SweepVisitsEveryCellInOrder := by
  intro v hlo hhi
  obtain ⟨n, hside, hn⟩ : ∃ n, 17 + 4 * v = 2 * n + 1 ∧ 4 ≤ n := ⟨8 + 2 * v, by ring, by omega⟩
  rw [hside]
  refine ⟨length_sweepOrder hn, fun r c hr hc hc6 => ?_⟩
  unfold sweepPlace
  dsimp only
  generalize hd : 2 * n + 1 - 2 - (if 6 < c then c - 1 else c) = d
  have hcol : pairEdge (2 * n + 1) (d / 2) - 1 - d % 2 = c := by
    unfold pairEdge
    split_ifs at hd ⊢ <;> omega
  have hpair : d / 2 < n := by omega
  rw [Nat.add_assoc, getElem?_sweepOrder hn hpair (by split_ifs <;> omega) (Nat.mod_lt d (by decide)), hcol]
  congr 2
  split_ifs <;> omega

/-- A list no longer than a set it covers lists that set, each element once. -/
theorem nodup_and_mem_of_covers {α : Type} [DecidableEq α] {l : List α} {S : Finset α} (hlen : l.length ≤ S.card)
    (hcovers : S ⊆ l.toFinset) : l.Nodup ∧ ∀ a ∈ l, a ∈ S := by
  have hle : l.toFinset.card ≤ l.length := List.toFinset_card_le l
  have heq : S = l.toFinset := Finset.eq_of_subset_of_card_le hcovers (hle.trans hlen)
  refine ⟨Multiset.coe_nodup.1 (Multiset.toFinset_card_eq_card_iff_nodup.1 (hle.antisymm ?_)), fun a ha => ?_⟩
  · rw [← heq]; exact hlen
  · rw [heq]; exact List.mem_toFinset.2 ha

/-- The sweep of a legal version visits cells of the grid only, none twice. -/
theorem sweepOrder_nodup_and_bounds {v : Nat} (hlo : 1 ≤ v) (hhi : v ≤ 40) :
    (sweepOrder (17 + 4 * v)).Nodup ∧ ∀ p ∈ sweepOrder (17 + 4 * v), p.1 < 17 + 4 * v ∧ p.2 < 17 + 4 * v := by
  obtain ⟨hlen, hplace⟩ := sweepVisitsEveryCellInOrder v hlo hhi
  have hcard : (Finset.range (17 + 4 * v) ×ˢ (Finset.range (17 + 4 * v)).erase 6).card
      = (17 + 4 * v) * (17 + 4 * v - 1) := by
    rw [Finset.card_product, Finset.card_erase_of_mem (Finset.mem_range.2 (by omega)), Finset.card_range]
  obtain ⟨hnodup, hmem⟩ := nodup_and_mem_of_covers (hlen.le.trans hcard.ge) fun p hp => by
    simp only [Finset.mem_product, Finset.mem_erase, Finset.mem_range] at hp
    exact List.mem_toFinset.2 (List.mem_of_getElem? (hplace p.1 p.2 hp.1 hp.2.2 hp.2.1))
  refine ⟨hnodup, fun p hp => ?_⟩
  have hin := hmem p hp
  simp only [Finset.mem_product, Finset.mem_erase, Finset.mem_range] at hin
  exact ⟨hin.1, hin.2.2⟩

end Sys2Proof.Machine
end

section
/-! PROOFS. The block sizes (rule R141) and the interleaved sequence entry by entry (rules R142, R143), after what ends a
command in `BadState`, in its effect or in a `Fatal`. -/

namespace Sys2Proof.Machine

open Sys2Proof.Claims

/-! ### How a command ends (rules R103, R212, R214, R216) -/

theorem exec_badState {i : Instr} (hi : i ≠ .reset) {s : State} (hf : s.status.fatal = false)
    (hpre : ¬ precondition i s = true) : exec i s = .next (rejected s .badState) := by
  rw [Bool.not_eq_true] at hpre
  rw [exec_eq hi, hpre, runCommand_badState hf]
  rfl

theorem exec_done {i : Instr} (hi : i ≠ .reset) {s t : State} (h : Ready i s) (he : effectOf i s = .done t) :
    exec i s = .next t.finish := by
  rw [exec_of_ready hi h, he]
  rfl

/-- The locations in the engine's memories, each readable under a flag only (rule R86). -/
def inEngineMemory : Location → Bool
  | .register _ | .cap _ _ | .cw _ => false
  | .out _ | .work _ | .cand _ | .tpl _ _ | .grid _ _ | .seq _ => true

/-- From 0x2000 on the window holds the engine's memories only (rule R80). -/
theorem locationOf_inEngineMemory {addr : BitVec 20} (width : Nat) (ha : 0x2000 ≤ addr.toNat) :
    (locationOf addr width).all inEngineMemory = true := by
  unfold locationOf wordLocation byteLocation
  split_ifs <;> simp only [Option.all_none, Option.all_some, inEngineMemory, Bool.false_eq_true] <;> omega

theorem readLocation_fatalLatched {t : State} {st : Status} {code : ErrCode} (ht : t.status = st.fatalLatched.ended code)
    {loc : Location} (hloc : inEngineMemory loc = true) : readLocation t loc = none := by
  cases loc with
  | register | cap | cw => cases hloc
  | _ => simp [readLocation, ht]

theorem memRead_raiseFatal (s : State) (code : FatalCode) {addr : BitVec 20} (width : Nat) (ha : 0x2000 ≤ addr.toNat) :
    memRead (s.raiseFatal code) addr width = none := by
  have hall := locationOf_inEngineMemory width ha
  unfold memRead
  cases hloc : locationOf addr width with
  | none => rfl
  | some loc =>
    rw [hloc, Option.all_some] at hall
    simp [readLocation_fatalLatched (s.raiseFatal_status code) hall]

theorem raiseFatal_fatalEnding (s : State) (code : FatalCode) : FatalEnding s (s.raiseFatal code) code where
  status_eq := rfl
  errcmd_eq := rfl
  code_eq := rfl
  cfg_eq := rfl
  cwlen_eq := rfl
  cw_eq _ := rfl
  config_eq := rfl
  port_eq := rfl
  unreadable _ width ha := memRead_raiseFatal s code width ha

theorem exec_fatal {i : Instr} (hi : i ≠ .reset) {s : State} {code : FatalCode} (h : Ready i s)
    (he : effectOf i s = .fatal code) : ∃ t, exec i s = .next t ∧ FatalEnding s t code :=
  ⟨s.raiseFatal code, by rw [exec_of_ready hi h, he]; rfl, raiseFatal_fatalEnding s code⟩

/-! ### The preconditions (rule R108) -/

theorem precondition_blParam_iff (s : State) :
    precondition .blParam s = true ↔ s.status.gridInit = true ∧ s.status.layoutOk = false ∧ s.status.planOk = false := by
  simp [precondition, and_assoc]

theorem precondition_blIlv_iff (s : State) :
    precondition .blIlv s = true ↔ s.status.paramOk = true ∧ s.status.layoutOk = false ∧ s.status.planOk = false := by
  simp [precondition, and_assoc]

theorem precondition_blSweep_iff (s : State) :
    precondition .blSweep s = true ↔ s.status.gridInit = true ∧ s.status.gpstep = 6 ∧ s.status.seqOk = true
      ∧ s.status.layoutOk = false ∧ s.status.planOk = false := by
  simp [precondition, Status.gridOk, and_assoc]

theorem precondition_blAll_iff (s : State) :
    precondition .blAll s = true ↔ s.status.gridInit = true ∧ s.status.gpstep = 6 ∧ s.status.layoutOk = false
      ∧ s.status.planOk = false := by
  simp [precondition, Status.gridOk, and_assoc]

/-! ### `BL.PARAM` (rule R141) -/

theorem blParam_of_not_levelSound {s : State} (h : ¬ levelSound s.capEntry s.cfg.level.toNat) :
    blParam s = .fatal .tableDefect := by
  unfold levelSound at h
  simp only [blParam]
  rw [if_pos (by omega)]

/-- Settles O23: `blParam` completes for a sound Level tuple and for no other. -/
theorem blParamComputesBlockSizes : Obligations.BlParamComputesBlockSizes := by
  intro s hf
  refine ⟨fun hg hl hp hlevel => ?_, fun hg hl hp hlevel => ?_, fun hbad => ?_⟩
  · have hready : Ready .blParam s :=
      ⟨hf, (precondition_blParam_iff s).2 ⟨hg, hl, hp⟩, decide_eq_true hlevel, rfl⟩
    refine ⟨fun hsound => ?_, fun hdefect => exec_fatal (i := .blParam) nofun hready (blParam_of_not_levelSound hdefect)⟩
    obtain ⟨t, ht, hblock, hnb, hne⟩ := blParam_isDone hlevel hsound
    obtain ⟨-, hframe⟩ := blParam_done ht
    refine ⟨t.finish, exec_done (i := .blParam) nofun hready ht, ?_, hnb, hne, ?_⟩
    · rw [hframe]
      rfl
    · obtain ⟨h1, h2, h3, h4, h5, h6⟩ := hblock
      exact ⟨h1, h2, h3, h4, h5, h6⟩
  · exact exec_invalidParameter (i := .blParam) nofun hf
      ((precondition_blParam_iff s).2 ⟨hg, hl, hp⟩) (by simpa [parametersInRange] using hlevel)
  · exact exec_badState (i := .blParam) nofun hf ((precondition_blParam_iff s).not.2 hbad)

/-! ### The interleaved sequence (rules R142, R143) -/

theorem getElem?_append_of_left {α : Type} {l l' : List α} {i : Nat} {a : α} (h : l[i]? = some a) :
    (l ++ l')[i]? = some a := by
  rw [List.getElem?_append_left (List.getElem?_eq_some_iff.1 h).1, h]

theorem getElem?_append_add {α : Type} (l l' : List α) (i : Nat) : (l ++ l')[l.length + i]? = l'[i]? := by
  rw [List.getElem?_append_right (Nat.le_add_right _ _), Nat.add_sub_cancel_left]

theorem getElem?_byteEntries (role : Role) (index : Nat) {x : Nat} (hx : x < 8) :
    (byteEntries role index)[x]? = some ⟨role, .ofNat 15 (8 * index + x)⟩ := by
  simp [byteEntries, hx]

/-- One byte of each of the blocks `0 .. n-1`, in order. -/
theorem getElem?_byteRow (role : Role) (index : Nat → Nat) {n b x : Nat} (hb : b < n) (hx : x < 8) :
    ((List.range n).flatMap fun b => byteEntries role (index b))[8 * b + x]?
      = some ⟨role, .ofNat 15 (8 * index b + x)⟩ := by
  rw [getElem?_flatMap_const _ _ (fun _ _ => length_byteEntries _ _) b hx, List.getElem?_range hb, Option.bind_some,
    getElem?_byteEntries _ _ hx]

theorem length_byteRow (role : Role) (index : Nat → Nat) (n : Nat) :
    ((List.range n).flatMap fun b => byteEntries role (index b)).length = 8 * n := by
  rw [length_flatMap_const _ _ _ fun _ _ => length_byteEntries _ _, List.length_range]

/-- Rows of bytes, one after the other: byte `i` of block `b` is the `i·n + b`-th. -/
theorem getElem?_byteRows (role : Role) (index : Nat → Nat → Nat) {m n i b x : Nat} (hi : i < m) (hb : b < n)
    (hx : x < 8) :
    ((List.range m).flatMap fun i => (List.range n).flatMap fun b => byteEntries role (index i b))[8 * (i * n + b) + x]?
      = some ⟨role, .ofNat 15 (8 * index i b + x)⟩ := by
  have hplace : 8 * (i * n + b) + x = 8 * n * i + (8 * b + x) := by ring
  rw [hplace, getElem?_flatMap_const _ _ (fun i _ => length_byteRow role (index i) n) i (by omega), List.getElem?_range hi,
    Option.bind_some, getElem?_byteRow role (index i) hb hx]

theorem length_byteRows (role : Role) (index : Nat → Nat → Nat) (m n : Nat) :
    ((List.range m).flatMap fun i => (List.range n).flatMap fun b => byteEntries role (index i b)).length
      = 8 * (m * n) := by
  rw [length_flatMap_const _ _ _ fun i _ => length_byteRow role (index i) n, List.length_range]
  ring

/-- The data entries are full rows, one for each index every block has, and the last bytes of the long blocks. -/
theorem dataEntries_eq (p : PlanRegs) (he : p.extra.toNat < p.nb.toNat) :
    dataEntries p
      = ((List.range p.nde.toNat).flatMap fun i => (List.range p.nb.toNat).flatMap fun b =>
          byteEntries .data (blockStart p b + i))
        ++ (List.range p.extra.toNat).flatMap fun j =>
          byteEntries .data (blockStart p (p.nb.toNat - p.extra.toNat + j) + p.nde.toNat) := by
  have hblocks : List.range p.nb.toNat = List.range (p.nb.toNat - p.extra.toNat)
      ++ (List.range p.extra.toNat).map (p.nb.toNat - p.extra.toNat + ·) := by
    rw [← List.range_add, Nat.sub_add_cancel he.le]
  have hshort : ∀ b < p.nb.toNat - p.extra.toNat, blockLen p b = p.nde.toNat := fun b hb => if_neg (by omega)
  have hlong : ∀ j, blockLen p (p.nb.toNat - p.extra.toNat + j) = p.nde.toNat + 1 := fun j => if_pos (by omega)
  have hmin : ∀ b, p.nde.toNat ≤ blockLen p b := fun b => by unfold blockLen; split <;> omega
  unfold dataEntries
  rw [List.range_succ, List.flatMap_append, List.flatMap_singleton]
  congr 1
  · refine List.flatMap_congr fun i hi => List.flatMap_congr fun b _ => if_pos ?_
    exact (List.mem_range.1 hi).trans_le (hmin b)
  · rw [hblocks, List.flatMap_append, List.flatMap_eq_nil_iff.2, List.nil_append, List.flatMap_map]
    · exact List.flatMap_congr fun j _ => if_pos (by rw [hlong]; omega)
    · intro b hb
      rw [hshort b (List.mem_range.1 hb), if_neg (lt_irrefl _)]

/-- Entry `x` of data byte `i` of block `b`. -/
theorem getElem?_dataEntries {p : PlanRegs} (he : p.extra.toNat < p.nb.toNat) {b i x : Nat} (hb : b < p.nb.toNat)
    (hi : i < dataLen p b) (hx : x < 8) :
    (dataEntries p)[8 * dataPlace p i b + x]? = some ⟨.data, .ofNat 15 (8 * (dataStart p b + i) + x)⟩ := by
  unfold dataLen at hi
  unfold dataPlace
  rw [dataEntries_eq p he]
  by_cases hfull : i < p.nde.toNat
  · rw [if_pos hfull]
    exact getElem?_append_of_left (getElem?_byteRows .data (fun i b => blockStart p b + i) hfull hb hx)
  · obtain ⟨hlong, rfl⟩ : p.nb.toNat - p.extra.toNat ≤ b ∧ i = p.nde.toNat := by split_ifs at hi <;> omega
    have hblock : p.nb.toNat - p.extra.toNat + (b - (p.nb.toNat - p.extra.toNat)) = b := by omega
    have hlast := getElem?_byteRow .data (fun j => blockStart p (p.nb.toNat - p.extra.toNat + j) + p.nde.toNat)
      (show b - (p.nb.toNat - p.extra.toNat) < p.extra.toNat by omega) hx
    simp only [hblock] at hlast
    rw [if_neg hfull, Nat.mul_add, Nat.add_assoc,
      ← length_byteRows .data (fun i b => blockStart p b + i) p.nde.toNat p.nb.toNat, getElem?_append_add]
    exact hlast

theorem length_checkEntries (p : PlanRegs) (hc : p.nb.toNat * p.ne.toNat = p.checkbytes.toNat) :
    (checkEntries p).length = 8 * p.checkbytes.toNat := by
  rw [checkEntries, length_byteRows .check (fun i b => p.databytes.toNat + b * p.ne.toNat + i), Nat.mul_comm p.ne.toNat, hc]

theorem length_dataEntries (p : PlanRegs) (hd : p.nb.toNat * p.nde.toNat + p.extra.toNat = p.databytes.toNat)
    (he : p.extra.toNat < p.nb.toNat) : (dataEntries p).length = 8 * p.databytes.toNat := by
  rw [dataEntries_eq p he, List.length_append, length_byteRows .data (fun i b => blockStart p b + i),
    length_byteRow .data fun j => blockStart p (p.nb.toNat - p.extra.toNat + j) + p.nde.toNat, ← hd,
    Nat.mul_comm p.nde.toNat]
  ring

/-- Entry `x` of check byte `i` of block `b`. -/
theorem getElem?_checkEntries (p : PlanRegs) {b i x : Nat} (hb : b < p.nb.toNat) (hi : i < p.ne.toNat) (hx : x < 8) :
    (checkEntries p)[8 * (i * p.nb.toNat + b) + x]?
      = some ⟨.check, .ofNat 15 (8 * (p.databytes.toNat + b * p.ne.toNat + i) + x)⟩ :=
  getElem?_byteRows .check (fun i b => p.databytes.toNat + b * p.ne.toNat + i) hi hb hx

theorem getElem?_extraEntries (p : PlanRegs) {j : Nat} (hj : j < 7) :
    (extraEntries p)[j]? = some ⟨.extra, .ofNat 15 (8 * (p.databytes.toNat + p.checkbytes.toNat) + j)⟩ := by
  simp [extraEntries, hj]

/-! ### `BL.ILV` (rule R143) -/

theorem blIlv_entry_of_getElem? {s : State} {i : Nat} {x : Cell} (h : (interleaved s.plan)[i]? = some x) :
    (blIlv s).entry i = x := by
  have hlt : i < (interleaved s.plan).length := (List.getElem?_eq_some_iff.1 h).1
  have hseq : Memory.get? (blIlv s).seq i = some x := (Memory.get?_writeList s.seq _ i).trans (by rw [if_pos hlt, h])
  rw [State.entry, hseq, Option.getD_some]

theorem blIlv_entry_of_le {s : State} {i : Nat} (h : (interleaved s.plan).length ≤ i) : (blIlv s).entry i = s.entry i := by
  have hseq : Memory.get? (blIlv s).seq i = Memory.get? s.seq i :=
    (Memory.get?_writeList s.seq _ i).trans (if_neg (by omega))
  rw [State.entry, hseq]
  rfl

theorem BlockShape.length_interleaved {s : State} (h : BlockShape s) :
    (interleaved s.plan).length = 8 * (s.plan.databytes.toNat + s.plan.checkbytes.toNat) + 7 :=
  Machine.length_interleaved s.plan h.check_eq h.data_eq h.extra_lt

theorem BlockShape.blIlv_seqlen {s : State} (h : BlockShape s) :
    (blIlv s).plan.seqlen.toNat = 8 * (s.plan.databytes.toNat + s.plan.checkbytes.toNat) + 7 := by
  have hbytes := s.capEntry.bytes.isLt
  have htotal := h.total_eq
  have hseqlen : (blIlv s).plan.seqlen = .ofNat 32 (interleaved s.plan).length := rfl
  rw [hseqlen, h.length_interleaved, BitVec.toNat_ofNat]
  omega

/-- Settles O24: data, check and filler entries stand one part after the other, each part in rows of one byte per block. -/
theorem blIlvInterleaves : Obligations.BlIlvInterleaves := by
  intro s hf
  refine ⟨fun hparam hl hp hblock => ?_, fun hbad =>
    exec_badState (i := .blIlv) nofun hf ((precondition_blIlv_iff s).not.2 hbad)⟩
  have hready : Ready .blIlv s := ⟨hf, (precondition_blIlv_iff s).2 ⟨hparam, hl, hp⟩, rfl, rfl⟩
  have hdata := length_dataEntries s.plan hblock.data_eq hblock.extra_lt
  have hcheck := length_checkEntries s.plan hblock.check_eq
  refine ⟨(blIlv s).finish, exec_done (i := .blIlv) nofun hready rfl, rfl, hblock.blIlv_seqlen,
    fun b i x hb hi hx => ?_, fun b i x hb hi hx => ?_, fun j hj => ?_, fun i hi => ?_⟩
  · refine blIlv_entry_of_getElem? ?_
    exact getElem?_append_of_left (getElem?_append_of_left (getElem?_dataEntries hblock.extra_lt hb hi hx))
  · refine blIlv_entry_of_getElem? (getElem?_append_of_left ?_)
    rw [Nat.add_assoc s.plan.databytes.toNat, Nat.mul_add, Nat.add_assoc, ← hdata, getElem?_append_add]
    exact getElem?_checkEntries s.plan hb hi hx
  · refine blIlv_entry_of_getElem? ?_
    have hlen : 8 * (s.plan.databytes.toNat + s.plan.checkbytes.toNat)
        = (dataEntries s.plan ++ checkEntries s.plan).length := by
      rw [List.length_append, hdata, hcheck, Nat.mul_add]
    have hextra := getElem?_extraEntries s.plan hj
    rw [hlen] at hextra ⊢
    exact (getElem?_append_add _ _ j).trans hextra
  · refine blIlv_entry_of_le ?_
    rw [hblock.length_interleaved, ← hblock.blIlv_seqlen]
    exact hi

end Sys2Proof.Machine
end

section
/-! PROOFS. The sweep as a filling of the free cells (rules R145, R146), and `BL.ALL` as its three commands (rule R147). -/

namespace Sys2Proof.Machine

open Sys2Proof.Claims

/-! ### `BL.SWEEP` (rules R145, R146) -/

/-- From `grid` to `filled` the cells of the list `free` are given the entries of `SEQ` from `p` on, one each in order, and
every other location keeps what it held. -/
structure Fills (s : State) (free : List (Nat × Nat)) (p : Nat) (grid filled : Memory Cell) : Prop where
  given : ∀ j r c, free[j]? = some (r, c) → Memory.get? filled (cellIndex r c) = some (s.entry (p + j))
  kept  : ∀ i, (∀ v ∈ free, cellIndex v.1 v.2 ≠ i) → Memory.get? filled i = Memory.get? grid i

theorem Fills.nil (s : State) (p : Nat) (grid : Memory Cell) : Fills s [] p grid grid := ⟨nofun, fun _ _ => rfl⟩

theorem Fills.cons {s : State} {v : Nat × Nat} {free : List (Nat × Nat)} {p : Nat} {grid filled : Memory Cell}
    (hv : ∀ w ∈ free, cellIndex w.1 w.2 ≠ cellIndex v.1 v.2)
    (h : Fills s free (p + 1) (Memory.set grid (cellIndex v.1 v.2) (s.entry p)) filled) :
    Fills s (v :: free) p grid filled where
  given
    | 0, r, c, hj => by
      obtain rfl : v = (r, c) := by simpa using hj
      exact (h.kept _ hv).trans (Memory.get?_set_self ..)
    | j + 1, r, c, hj => by
      rw [show p + (j + 1) = p + 1 + j by omega]
      exact h.given j r c hj
  kept i hi := by
    rw [h.kept i fun w hw => hi w (List.mem_cons_of_mem v hw), Memory.get?_set_of_ne _ _ (hi v List.mem_cons_self)]

/-- One visit of the sweep: a free cell takes the next entry, if there is one; any other cell is passed by. -/
theorem sweepLoop_cons (s : State) (v : Nat × Nat) (visits : List (Nat × Nat)) (grid : Memory Cell) (p : Nat) :
    sweepLoop s (v :: visits) grid p =
      if isFree s grid v then
        if p ≥ s.plan.seqlen.toNat then none
        else sweepLoop s visits (Memory.set grid (cellIndex v.1 v.2) (s.entry p)) (p + 1)
      else sweepLoop s visits grid p := by
  simp only [sweepLoop, isFree, decide_eq_true_eq]

/-- What a sweep that ends has done: it has filled the free cells among its visits, and `SEQ` had an entry for each. -/
theorem sweepLoop_fills {s : State} {visits : List (Nat × Nat)} {grid filled : Memory Cell} {p q : Nat}
    (hn : (visits.map fun v => cellIndex v.1 v.2).Nodup) (h : sweepLoop s visits grid p = some (filled, q)) :
    Fills s (visits.filter (isFree s grid)) p grid filled ∧ q = p + (visits.filter (isFree s grid)).length
      ∧ (p ≤ s.plan.seqlen.toNat → q ≤ s.plan.seqlen.toNat) := by
  induction visits generalizing grid p with
  | nil =>
    obtain ⟨rfl, rfl⟩ : grid = filled ∧ p = q := by simpa [sweepLoop] using h
    exact ⟨.nil s p grid, rfl, id⟩
  | cons v visits ih =>
    obtain ⟨hv, hn⟩ := List.nodup_cons.1 hn
    have hother : ∀ w ∈ visits, cellIndex w.1 w.2 ≠ cellIndex v.1 v.2 := fun w hw he =>
      hv (List.mem_map.2 ⟨w, hw, he⟩)
    rw [sweepLoop_cons] at h
    split_ifs at h with hfree hp
    · have hsame : visits.filter (isFree s (Memory.set grid (cellIndex v.1 v.2) (s.entry p)))
          = visits.filter (isFree s grid) :=
        List.filter_congr fun w hw => isFree_set _ (hother w hw).symm
      obtain ⟨hfills, hq, hle⟩ := ih hn h
      rw [hsame] at hfills hq
      rw [List.filter_cons_of_pos hfree, List.length_cons]
      exact ⟨hfills.cons fun w hw => hother w (List.mem_of_mem_filter hw), by omega, fun _ => hle (by omega)⟩
    · rw [List.filter_cons_of_neg hfree]
      exact ih hn h

theorem PlanShape.side_eq_version {s : State} (h : PlanShape s) : s.side = 17 + 4 * s.plan.plancfg.version.toNat :=
  h.side_eq

theorem PlanShape.sweepOrder_column_lt {s : State} (h : PlanShape s) {p : Nat × Nat} (hp : p ∈ sweepOrder s.side) :
    p.2 < 256 := by
  have hside := h.side_bounds
  rw [h.side_eq_version] at hp hside
  have hlt := ((sweepOrder_nodup_and_bounds h.version_lo h.version_hi).2 p hp).2
  omega

/-- No two visits of the sweep are to one location of `GRID`. -/
theorem PlanShape.sweepOrder_nodup {s : State} (h : PlanShape s) :
    ((sweepOrder s.side).map fun v => cellIndex v.1 v.2).Nodup := by
  have hnodup : (sweepOrder s.side).Nodup := by
    rw [h.side_eq_version]
    exact (sweepOrder_nodup_and_bounds h.version_lo h.version_hi).1
  refine hnodup.map_on fun v hv w hw he => ?_
  obtain ⟨hr, hc⟩ := (cellIndex_inj (h.sweepOrder_column_lt hv) (h.sweepOrder_column_lt hw)).1 he
  exact Prod.ext hr hc

theorem blSweep_ne_stuck (s : State) (r : Fault) : blSweep s ≠ .stuck r := by
  unfold blSweep
  split
  · exact nofun
  · split <;> exact nofun

/-- `BL.SWEEP` raises its `Fatal` when the free cells are too few for the stream or too many for `SEQ`. -/
theorem blSweep_of_mismatch {s : State} (hn : ((sweepOrder s.side).map fun v => cellIndex v.1 v.2).Nodup)
    (h : ¬ (8 * (s.plan.databytes.toNat + s.plan.checkbytes.toNat) ≤ (freeInOrder s).length
      ∧ (freeInOrder s).length ≤ s.plan.seqlen.toNat)) : blSweep s = .fatal .sweepMismatch := by
  cases he : blSweep s with
  | done t =>
    obtain ⟨grid, p, hloop, hstream, -⟩ := blSweep_done he
    obtain ⟨-, hp, hle⟩ := sweepLoop_fills hn hloop
    have hfree : p = (freeInOrder s).length := hp.trans (Nat.zero_add _)
    have hseqlen := hle (Nat.zero_le _)
    exact absurd ⟨by omega, by omega⟩ h
  | fatal code => rw [blSweep_fatal he]
  | stuck r => exact absurd he (blSweep_ne_stuck s r)

theorem Fills.cell_given {s t : State} {free : List (Nat × Nat)} (h : Fills s free 0 s.grid t.grid) {p r c : Nat}
    (hp : free[p]? = some (r, c)) : t.cell r c = s.entry p := by
  rw [State.cell, h.given p r c hp, Nat.zero_add, Option.getD_some]

theorem Fills.cell_kept {s t : State} {free : List (Nat × Nat)} (h : Fills s free 0 s.grid t.grid)
    (hstamp : t.engineStamp = s.engineStamp) (hcol : ∀ v ∈ free, v.2 < 256) {r c : Nat} (hc : c < 256)
    (hout : (r, c) ∉ free) : t.cell r c = s.cell r c := by
  rw [State.cell, State.cell, hstamp, h.kept]
  intro v hv he
  obtain ⟨rfl, rfl⟩ := (cellIndex_inj (hcol v hv) hc).1 he
  exact hout hv

/-- Settles O26: the sweep fills the free cells when it ends, and it ends when they hold the stream and `SEQ` fills them. -/
theorem blSweepFillsFreeCells : Obligations.BlSweepFillsFreeCells := by
  intro s hf hs
  refine ⟨fun hg hstep hseq hl hp => ?_, fun hbad =>
    exec_badState (i := .blSweep) nofun hf ((precondition_blSweep_iff s).not.2 hbad)⟩
  have hready : Ready .blSweep s := ⟨hf, (precondition_blSweep_iff s).2 ⟨hg, hstep, hseq, hl, hp⟩, rfl, rfl⟩
  have hn := hs.sweepOrder_nodup
  refine ⟨fun hlo hhi => ?_, fun hmismatch => exec_fatal (i := .blSweep) nofun hready (blSweep_of_mismatch hn hmismatch)⟩
  obtain ⟨t, ht, hcount⟩ := blSweep_isDone hn hlo hhi
  obtain ⟨grid, p, hloop, -, hframe⟩ := blSweep_done ht
  have hfills : Fills s (freeInOrder s) 0 s.grid t.finish.grid := by
    rw [hframe]
    exact (sweepLoop_fills hn hloop).1
  have hcol : ∀ v ∈ freeInOrder s, v.2 < 256 := fun v hv => hs.sweepOrder_column_lt (List.mem_of_mem_filter hv)
  exact ⟨t.finish, exec_done (i := .blSweep) nofun hready ht, by rw [hframe]; rfl, hcount,
    fun p r c hp => hfills.cell_given hp, fun r c hc hout => hfills.cell_kept (blSweep_keeps ht).engineStamp hcol hc hout⟩

/-! ### `BL.ALL` (rule R147) -/

theorem blAll_of_blParam_done {s u : State} (h : blParam s = .done u) : blAll s = blSweep (blIlv u) := by
  unfold blAll
  rw [h, Effect.andThen_done]

theorem blAll_of_blParam_fatal {s : State} {code : FatalCode} (h : blParam s = .fatal code) : blAll s = .fatal code := by
  unfold blAll
  rw [h, Effect.andThen_fatal]

/-- What `BL.SWEEP` looks at after `BL.PARAM` and `BL.ILV`: the stream of the record and the grid as it was. -/
theorem blIlv_of_blParam {s u : State} (hu : blParam s = .done u) (hb : BlockShape u) :
    (blIlv u).plan.databytes.toNat + (blIlv u).plan.checkbytes.toNat = s.capEntry.bytes.toNat
      ∧ (blIlv u).plan.seqlen.toNat = 8 * s.capEntry.bytes.toNat + 7
      ∧ (blIlv u).side = s.side ∧ freeInOrder (blIlv u) = freeInOrder s := by
  obtain ⟨-, hframe⟩ := blParam_done hu
  have hcap : u.capEntry = s.capEntry := by rw [hframe]; rfl
  have htotal : u.plan.databytes.toNat + u.plan.checkbytes.toNat = s.capEntry.bytes.toNat := by rw [hb.total_eq, hcap]
  exact ⟨htotal, by rw [hb.blIlv_seqlen, htotal], by rw [hframe]; rfl, by rw [hframe]; rfl⟩

/-- `BL.SWEEP` does not see how the last command ended. -/
theorem sweepLoop_finish (s : State) (visits : List (Nat × Nat)) (grid : Memory Cell) (p : Nat) :
    sweepLoop s.finish visits grid p = sweepLoop s visits grid p := by
  induction visits generalizing grid p with
  | nil => rfl
  | cons v visits ih =>
    rw [sweepLoop_cons, sweepLoop_cons, ih, ih]
    rfl

theorem blSweep_finish {s t : State} (h : blSweep s = .done t) : blSweep s.finish = .done t.finish := by
  obtain ⟨grid, p, hloop, hstream, rfl⟩ := blSweep_done h
  have hloop' : sweepLoop s.finish (sweepOrder s.finish.side) s.finish.grid 0 = some (grid, p) :=
    (sweepLoop_finish s _ _ 0).trans hloop
  unfold blSweep
  rw [hloop']
  exact if_neg (Nat.not_lt.2 hstream)

/-- `BL.ALL` in its precondition, when it completes, is its three commands issued one by one. -/
theorem blAll_chain {s t : State} (hready : Ready .blAll s) (ht : blAll s = .done t) :
    Chain [.blParam, .blIlv, .blSweep] s t.finish := by
  obtain ⟨hf, hpre, hlevel, -⟩ := hready
  obtain ⟨hg, hstep, hl, hp⟩ := (precondition_blAll_iff s).1 hpre
  obtain ⟨u, hu, hsweep⟩ := blAll_done ht
  obtain ⟨-, hframe⟩ := blParam_done hu
  have hparam : exec .blParam s = .next u.finish :=
    exec_done (i := .blParam) nofun ⟨hf, (precondition_blParam_iff s).2 ⟨hg, hl, hp⟩, hlevel, rfl⟩ hu
  have hilv : exec .blIlv u.finish = .next (blIlv u.finish).finish := by
    refine exec_done (i := .blIlv) nofun ⟨?_, (precondition_blIlv_iff _).2 ?_, rfl, rfl⟩ rfl <;> rw [hframe]
    · exact hf
    · exact ⟨rfl, hl, hp⟩
  have hlast : exec .blSweep (blIlv u).finish = .next t.finish.finish := by
    refine exec_done (i := .blSweep) nofun ⟨?_, (precondition_blSweep_iff _).2 ?_, rfl, rfl⟩ (blSweep_finish hsweep)
      <;> rw [hframe]
    · exact hf
    · exact ⟨hg, hstep, rfl, hl, hp⟩
  exact ⟨_, hparam, rfl, _, hilv, rfl, _, hlast, rfl, rfl⟩

/-- Settles O27: the effect of each part is that of its command, and the ends of the commands between are not seen. -/
theorem blAllIsItsThreeCommands : Obligations.BlAllIsItsThreeCommands := by
  intro s hf hs
  have hn := hs.sweepOrder_nodup
  have hready : s.status.gridInit = true → s.status.gpstep = 6 → s.status.layoutOk = false → s.status.planOk = false →
      s.cfg.level.toNat ≤ 3 → Ready .blAll s := fun hg hstep hl hp hlevel =>
    ⟨hf, (precondition_blAll_iff s).2 ⟨hg, hstep, hl, hp⟩, decide_eq_true hlevel, rfl⟩
  refine ⟨fun hg hstep hl hp hlevel hsound hlo hhi => ?_,
    fun hg hstep hl hp => ⟨fun hlevel => ?_, fun hlevel hdefect => ?_, fun hlevel hsound hmismatch => ?_⟩,
    fun hbad => exec_badState (i := .blAll) nofun hf ((precondition_blAll_iff s).not.2 hbad)⟩
  · have hready := hready hg hstep hl hp hlevel
    obtain ⟨t, ht⟩ := blAll_isDone hlevel hsound hn hlo hhi
    refine ⟨t.finish, exec_done (i := .blAll) nofun hready ht, blAll_chain hready ht, ?_⟩
    rw [blAll_frame ht]
    exact ⟨rfl, rfl, rfl, rfl⟩
  · exact exec_invalidParameter (i := .blAll) nofun hf ((precondition_blAll_iff s).2 ⟨hg, hstep, hl, hp⟩)
      (by simpa [parametersInRange] using hlevel)
  · exact exec_fatal (i := .blAll) nofun (hready hg hstep hl hp hlevel)
      (blAll_of_blParam_fatal (blParam_of_not_levelSound hdefect))
  · obtain ⟨u, hu, hblock, -⟩ := blParam_isDone hlevel hsound
    obtain ⟨hbytes, hseqlen, hside, hfree⟩ := blIlv_of_blParam hu hblock
    refine exec_fatal (i := .blAll) nofun (hready hg hstep hl hp hlevel) ((blAll_of_blParam_done hu).trans ?_)
    refine blSweep_of_mismatch (by rw [hside]; exact hn) ?_
    rw [hbytes, hseqlen, hfree]
    exact hmismatch

end Sys2Proof.Machine
end

section
/-! PROOFS. The format-info commands (rules R156 to R159): the printed words are a linear code with a constant XORed
onto it, `FI.PAINT` writes each bit at its two cells, and `FI.PLAN` is its two commands. -/

namespace Sys2Proof.Machine

open Sys2Proof.Claims

/-! ### The tests of the three commands (rules R105, R108, R211) -/

/-- A command is rejected for its operand once the tests before that one pass (rules R211, R212). -/
theorem exec_badOperand {i : Instr} (hi : i ≠ .reset) {s : State} (hf : s.status.fatal = false)
    (hpre : precondition i s = true) (hparam : parametersInRange i s = true) (hoperand : ¬ operandsInRange i s = true) :
    exec i s = .next (rejected s .badOperand) := by
  rw [Bool.not_eq_true] at hoperand
  rw [exec_eq hi, hpre, hparam, hoperand, runCommand_badOperand hf]
  rfl

theorem precondition_fiEnc_iff (m : Nat) (s : State) :
    precondition (.fiEnc m) s = true ↔ s.status.paramOk = true ∧ s.status.planOk = false := by
  simp [precondition]

theorem precondition_fiPaint_iff (k : Nat) (s : State) :
    precondition (.fiPaint k) s = true ↔ s.status.gridInit = true ∧ s.status.gpstep = 6 ∧ s.status.fmtOk = true
      ∧ s.status.planOk = false := by
  simp [precondition, Status.gridOk, and_assoc]

theorem precondition_fiPlan_iff (m k : Nat) (s : State) :
    precondition (.fiPlan m k) s = true ↔ s.status.gridInit = true ∧ s.status.gpstep = 6 ∧ s.status.paramOk = true
      ∧ s.status.planOk = false := by
  simp [precondition, Status.gridOk, and_assoc]

theorem parametersInRange_fiEnc_iff (m : Nat) (s : State) : parametersInRange (.fiEnc m) s = true ↔ m ≤ 7 :=
  decide_eq_true_iff

theorem parametersInRange_fiPlan_iff (m k : Nat) (s : State) : parametersInRange (.fiPlan m k) s = true ↔ m ≤ 7 :=
  decide_eq_true_iff

theorem operandsInRange_fiPaint_iff (k : Nat) (s : State) :
    operandsInRange (.fiPaint k) s = true ↔ k ≤ 7 ∧ k < s.ncopy :=
  decide_eq_true_iff

theorem operandsInRange_fiPlan_iff (m k : Nat) (s : State) :
    operandsInRange (.fiPlan m k) s = true ↔ k ≤ 7 ∧ k < s.ncopy :=
  decide_eq_true_iff

/-! ### `FI.PAINT` (rule R157) -/

/-- One turn of `FI.PAINT k`: bit `i` of the word at its two cells. -/
def paintFormatBit (k side : Nat) (word : BitVec 15) (t : State) (i : Nat) : State :=
  let bit := word.getLsbD i
  (t.setTplPixel k (fmtA i).1 (fmtA i).2 bit).setTplPixel k (fmtB side i).1 (fmtB side i).2 bit

theorem fiPaint_eq_foldl (k : Nat) (s : State) :
    fiPaint k s = (List.range 15).foldl (paintFormatBit k s.side s.plan.fmtword) s := rfl

theorem tplPixel_paintFormatBit {side : Nat} (hs : 21 ≤ side) (word : BitVec 15) {t : State}
    (hstride : side ≤ 8 * t.stride) {i k k' r c : Nat} (hi : i < 15) (hk : k' < 8) (hc : c < 8 * t.stride) :
    (paintFormatBit k side word t i).tplPixel k' r c =
      if k' = k ∧ (fmtA i = (r, c) ∨ fmtB side i = (r, c)) then word.getLsbD i else t.tplPixel k' r c := by
  have hcol : ∀ p : Nat × Nat, fmtA i = p ∨ fmtB side i = p → p.2 < 8 * t.stride := fun p hp =>
    (isFormatCell_column_lt hs ((isFormatCell_iff (by omega) i p.1 p.2).2 ⟨hi, hp⟩)).trans_le hstride
  have hat : ∀ p : Nat × Nat, (r = p.1 ∧ c = p.2) ↔ p = (r, c) := fun p => by
    rw [Prod.ext_iff, eq_comm, eq_comm (a := c)]
  rw [paintFormatBit, State.tplPixel_setTplPixel (t.setTplPixel _ _ _ _) _ hk hc (hcol _ (.inr rfl)),
    State.tplPixel_setTplPixel t _ hk hc (hcol _ (.inl rfl))]
  simp only [hat]
  by_cases hk' : k' = k <;> by_cases hA : fmtA i = (r, c) <;> simp [hk', hA]

/-- The modules after the turns of a list of bits: a placeholder of one of them shows its bit. -/
theorem tplPixel_foldl_paintFormatBit {side : Nat} (hs : 21 ≤ side) (word : BitVec 15) {k k' r c : Nat} (hk : k' < 8)
    (l : List Nat) (hl : ∀ i ∈ l, i < 15) (t : State) (hstride : side ≤ 8 * t.stride) (hc : c < 8 * t.stride) :
    (l.foldl (paintFormatBit k side word) t).tplPixel k' r c =
      if k' = k ∧ ∃ i ∈ l, fmtA i = (r, c) ∨ fmtB side i = (r, c) then word.getLsbD (formatBit side r c)
      else t.tplPixel k' r c := by
  induction l generalizing t with
  | nil => simp
  | cons i l ih =>
    have hi := hl i List.mem_cons_self
    rw [List.foldl_cons, ih (fun j hj => hl j (List.mem_cons_of_mem i hj)) (paintFormatBit k side word t i) hstride hc,
      tplPixel_paintFormatBit hs word hstride hi hk hc]
    by_cases hat : fmtA i = (r, c) ∨ fmtB side i = (r, c)
    · simp +contextual [hat, formatBit_eq_of_isFormatCell hs ((isFormatCell_iff (by omega) i r c).2 ⟨hi, hat⟩)]
    · simp [hat]

section
variable {s : State} {k k' r c : Nat}

/-- `FI.PAINT k` shows each bit of the word at its placeholders in `TPL[k]`. -/
theorem PlanShape.tplPixel_fiPaint_of_isFormatCell (h : PlanShape s) (hk : k < 8) {i : Nat}
    (hat : IsFormatCell s.side i r c) : (fiPaint k s).tplPixel k r c = s.plan.fmtword.getLsbD i := by
  have hlo := h.side_bounds.1
  have hc := (isFormatCell_column_lt hlo hat).trans_le h.side_le_stride
  obtain ⟨hi, hcell⟩ := (isFormatCell_iff (by omega) i r c).1 hat
  rw [fiPaint_eq_foldl, tplPixel_foldl_paintFormatBit hlo _ hk _ (fun _ => List.mem_range.1) _ h.side_le_stride hc,
    if_pos ⟨rfl, i, List.mem_range.2 hi, hcell⟩, formatBit_eq_of_isFormatCell hlo hat]

/-- `FI.PAINT k` leaves every module but the placeholders of `TPL[k]` as it was. -/
theorem PlanShape.tplPixel_fiPaint_of_not_isFormatCell (h : PlanShape s) (hk : k' < 8) (hc : c < 8 * s.stride)
    (hout : ¬ (k' = k ∧ ∃ i, IsFormatCell s.side i r c)) : (fiPaint k s).tplPixel k' r c = s.tplPixel k' r c := by
  have hlo := h.side_bounds.1
  rw [fiPaint_eq_foldl, tplPixel_foldl_paintFormatBit hlo _ hk _ (fun _ => List.mem_range.1) _ h.side_le_stride hc,
    if_neg]
  rintro ⟨rfl, i, hi, hcell⟩
  exact hout ⟨rfl, i, (isFormatCell_iff (by omega) i r c).2 ⟨List.mem_range.1 hi, hcell⟩⟩

end

@[simp] theorem State.finish_tplPixel (s : State) (k r c : Nat) : s.finish.tplPixel k r c = s.tplPixel k r c := rfl

/-- Settles O30: the turns write the placeholders of their bits only, and no cell is a placeholder of two bits. -/
theorem fiPaintWritesBothCopies : Obligations.FiPaintWritesBothCopies := by
  intro k s hf hs
  refine ⟨fun hg hstep hfmt hp => ?_, fun hbad =>
    exec_badState (i := .fiPaint k) nofun hf ((precondition_fiPaint_iff k s).not.2 hbad)⟩
  have hpre := (precondition_fiPaint_iff k s).2 ⟨hg, hstep, hfmt, hp⟩
  refine ⟨fun hk hcopy => ?_, fun hbad =>
    exec_badOperand (i := .fiPaint k) nofun hf hpre rfl ((operandsInRange_fiPaint_iff k s).not.2 hbad)⟩
  have hready : Ready (.fiPaint k) s := ⟨hf, hpre, rfl, (operandsInRange_fiPaint_iff k s).2 ⟨hk, hcopy⟩⟩
  refine ⟨(fiPaint k s).finish, exec_done (i := .fiPaint k) nofun hready rfl, ?_, fun i r c hat => ?_,
    fun k' r c hk' hc hout => ?_⟩
  · rw [fiPaint_sameButTemplates k s]
    rfl
  · rw [State.finish_tplPixel, hs.tplPixel_fiPaint_of_isFormatCell (by omega) hat]
  · rw [State.finish_tplPixel, hs.tplPixel_fiPaint_of_not_isFormatCell hk' hc hout]

/-! ### `FI.ENC` (rules R156, R159) -/

/-- The table of rule R159 is the evaluation of rule R156. -/
theorem formatWord_eq_tableFormatWord {level : BitVec 4} {m : Nat} (hlevel : level.toNat ≤ 3) (hm : m ≤ 7) :
    formatWord level m = BitVec.ofNat 15 (tableFormatWord level.toNat m) := by
  have htable : ∀ l < 4, ∀ m < 8, formatWord (BitVec.ofNat 4 l) m = BitVec.ofNat 15 (tableFormatWord l m) := by decide
  simpa using htable level.toNat (by omega) m (by omega)

/-- The codeword of a 5-bit message: the message and its remainder by the long division of rule R156. -/
def bchCodeword (x : BitVec 5) : BitVec 15 :=
  (x.setWidth 15 <<< 10) ^^^ [14, 13, 12, 11, 10].foldl bchRound (x.setWidth 15 <<< 10)

theorem bchRound_xor (a b : BitVec 15) (i : Nat) : bchRound (a ^^^ b) i = bchRound a i ^^^ bchRound b i := by
  unfold bchRound
  rw [BitVec.getLsbD_xor]
  generalize ((0x537 <<< (i - 10) : Nat) : BitVec 15) = g
  have hcancel : (a ^^^ g) ^^^ (b ^^^ g) = a ^^^ b := by
    rw [show (a ^^^ g) ^^^ (b ^^^ g) = (a ^^^ b) ^^^ (g ^^^ g) by ac_rfl, BitVec.xor_self, BitVec.xor_zero]
  cases a.getLsbD i <;> cases b.getLsbD i
  · rfl
  · exact BitVec.xor_assoc a b g
  · show a ^^^ b ^^^ g = a ^^^ g ^^^ b
    ac_rfl
  · exact hcancel.symm

theorem foldl_bchRound_xor (l : List Nat) (a b : BitVec 15) :
    l.foldl bchRound (a ^^^ b) = l.foldl bchRound a ^^^ l.foldl bchRound b := by
  induction l generalizing a b with
  | nil => rfl
  | cons i l ih => rw [List.foldl_cons, bchRound_xor, ih, List.foldl_cons, List.foldl_cons]

/-- The code is linear. -/
theorem bchCodeword_xor (x y : BitVec 5) : bchCodeword (x ^^^ y) = bchCodeword x ^^^ bchCodeword y := by
  simp only [bchCodeword, BitVec.setWidth_xor, BitVec.shiftLeft_xor_distrib, foldl_bchRound_xor]
  ac_rfl

/-- The weight of the code, over its 31 nonzero messages. -/
theorem seven_le_weight_bchCodeword : ∀ x : BitVec 5, x ≠ 0 →
    7 ≤ ((List.range 15).filter (bchCodeword x).getLsbD).length := by
  decide

/-- The printed words are the codewords, each with the word of level L and mask 0 XORed onto it. -/
theorem tableFormatWord_eq_bchCodeword : ∀ l < 4, ∀ m < 8,
    tableFormatWord l m = (bchCodeword (.ofNat 5 (8 * l + m)) ^^^ 0x77C4).toNat := by
  decide

/-- Two printed words differ where the codeword of the XOR of their messages has a 1. -/
theorem tableFormatWord_differ {l m l' m' : Nat} (hl : l < 4) (hm : m < 8) (hl' : l' < 4) (hm' : m' < 8) (i : Nat) :
    ((tableFormatWord l m).testBit i != (tableFormatWord l' m').testBit i) =
      (bchCodeword (.ofNat 5 (8 * l + m) ^^^ .ofNat 5 (8 * l' + m'))).getLsbD i := by
  have hbits : ∀ a b c : Bool, ((a ^^ c) != (b ^^ c)) = (a ^^ b) := by decide
  rw [tableFormatWord_eq_bchCodeword l hl m hm, tableFormatWord_eq_bchCodeword l' hl' m' hm', bchCodeword_xor,
    BitVec.testBit_toNat, BitVec.testBit_toNat, BitVec.getLsbD_xor, BitVec.getLsbD_xor, BitVec.getLsbD_xor, hbits]

/-- The distance of the 32 words is the least weight of the linear code they are the words of. -/
theorem seven_le_distance_tableFormatWord {l m l' m' : Nat} (hl : l < 4) (hm : m < 8) (hl' : l' < 4) (hm' : m' < 8)
    (hne : (l, m) ≠ (l', m')) :
    7 ≤ ((List.range 15).filter fun i =>
      (tableFormatWord l m).testBit i != (tableFormatWord l' m').testBit i).length := by
  have hmessages : BitVec.ofNat 5 (8 * l + m) ^^^ BitVec.ofNat 5 (8 * l' + m') ≠ 0 := fun h => by
    have heq := congrArg BitVec.toNat (BitVec.xor_eq_zero_iff.1 h)
    rw [BitVec.toNat_ofNat, BitVec.toNat_ofNat] at heq
    exact hne (Prod.ext (by simp only; omega) (by simp only; omega))
  simp only [tableFormatWord_differ hl hm hl' hm']
  exact seven_le_weight_bchCodeword _ hmessages

/-- Settles O29: the long division gives the printed words, which differ as the codewords of a linear code do. -/
theorem fiEncComputesFormatWord : Obligations.FiEncComputesFormatWord := by
  refine ⟨fun m s hf => ⟨fun hparam hp hm hlevel => ?_, fun hparam hp hm => ?_, fun hbad => ?_⟩,
    fun l m l' m' hl hm hl' hm' => seven_le_distance_tableFormatWord hl hm hl' hm'⟩
  · rw [← formatWord_eq_tableFormatWord hlevel hm]
    exact exec_done (i := .fiEnc m) nofun
      ⟨hf, (precondition_fiEnc_iff m s).2 ⟨hparam, hp⟩, (parametersInRange_fiEnc_iff m s).2 hm, rfl⟩ rfl
  · exact exec_invalidParameter (i := .fiEnc m) nofun hf ((precondition_fiEnc_iff m s).2 ⟨hparam, hp⟩)
      ((parametersInRange_fiEnc_iff m s).not.2 hm)
  · exact exec_badState (i := .fiEnc m) nofun hf ((precondition_fiEnc_iff m s).not.2 hbad)

/-! ### `FI.PLAN` (rule R158) -/

/-- `FI.PAINT` does not see how the last command ended. -/
theorem fiPaint_finish (k : Nat) (s : State) : fiPaint k s.finish = (fiPaint k s).finish :=
  List.foldl_hom State.finish fun _ _ => rfl

theorem State.finish_finish (s : State) : s.finish.finish = s.finish := rfl

/-- `FI.PLAN` in its precondition is its two commands issued one by one. -/
theorem fiPlan_chain {m k : Nat} {s : State} (hready : Ready (.fiPlan m k) s) :
    Chain [.fiEnc m, .fiPaint k] s (fiPlan m k s).finish := by
  obtain ⟨hf, hpre, hm, hk⟩ := hready
  obtain ⟨hg, hstep, hparam, hp⟩ := (precondition_fiPlan_iff m k s).1 hpre
  have henc : exec (.fiEnc m) s = .next (fiEnc m s).finish :=
    exec_done (i := .fiEnc m) nofun ⟨hf, (precondition_fiEnc_iff m s).2 ⟨hparam, hp⟩, hm, rfl⟩ rfl
  have hready : Ready (.fiPaint k) (fiEnc m s).finish :=
    ⟨hf, (precondition_fiPaint_iff k _).2 ⟨hg, hstep, rfl, hp⟩, rfl, hk⟩
  have hpaint := exec_done (i := .fiPaint k) nofun hready rfl
  rw [fiPaint_finish, State.finish_finish] at hpaint
  exact ⟨_, henc, rfl, _, hpaint, rfl, rfl⟩

/-- Settles O31: the effect is that of the two commands, and `FI.PAINT` does not see the end of `FI.ENC`. -/
theorem fiPlanIsItsTwoCommands : Obligations.FiPlanIsItsTwoCommands := by
  intro m k s hf
  refine ⟨fun hg hstep hparam hp => ?_, fun hbad =>
    exec_badState (i := .fiPlan m k) nofun hf ((precondition_fiPlan_iff m k s).not.2 hbad)⟩
  have hpre := (precondition_fiPlan_iff m k s).2 ⟨hg, hstep, hparam, hp⟩
  refine ⟨fun hm hk hcopy => ?_, fun hm => ?_, fun hm hbad => ?_⟩
  · have hready : Ready (.fiPlan m k) s :=
      ⟨hf, hpre, (parametersInRange_fiPlan_iff m k s).2 hm, (operandsInRange_fiPlan_iff m k s).2 ⟨hk, hcopy⟩⟩
    exact ⟨_, exec_done (i := .fiPlan m k) nofun hready rfl, fiPlan_chain hready⟩
  · exact exec_invalidParameter (i := .fiPlan m k) nofun hf hpre ((parametersInRange_fiPlan_iff m k s).not.2 hm)
  · exact exec_badOperand (i := .fiPlan m k) nofun hf hpre ((parametersInRange_fiPlan_iff m k s).2 hm)
      ((operandsInRange_fiPlan_iff m k s).not.2 hbad)

end Sys2Proof.Machine
end

section
/-! PROOFS. The mask functions (rule R165) depend on the residues of `r` and `c` modulo 12; `MK.APPLY` (rules R166, R167)
flips each masked module once, and which modules those are does not depend on the templates. -/

namespace Sys2Proof.Machine

open Sys2Proof.Claims

/-! ### The mask functions (rule R165) -/

/-- A mask function sees its coordinates modulo 12 only: its formula divides by 2 and 3 and takes remainders modulo 2
and 3. -/
theorem mask_congr (m : Nat) {r c r' c' : Nat} (hr : r ≡ r' [MOD 12]) (hc : c ≡ c' [MOD 12]) :
    mask m r c = mask m r' c' := by
  have hproduct : r * c ≡ r' * c' [MOD 12] := hr.mul hc
  unfold Nat.ModEq at hr hc hproduct
  match m with
  | 0 | 1 | 2 | 3 | 4 | 5 | 6 | 7 =>
    rw [Bool.eq_iff_iff]
    simp only [mask, beq_iff_eq]
    omega
  | _ + 8 => rfl

/-- Settles O32: the period is that of the residues modulo 12. -/
theorem maskFunctionsAreTheFormulas : Obligations.MaskFunctionsAreTheFormulas := by
  refine ⟨fun r c => ?_, fun m r c => ⟨?_, ?_⟩, by decide, by decide, by decide⟩
  · simp only [mask, beq_iff_eq, and_self]
  · exact mask_congr m Nat.add_modEq_right rfl
  · exact mask_congr m rfl Nat.add_modEq_right

/-! ### The modules of one template flipped (rule R166) -/

theorem coordinates_nodup (side : Nat) : (coordinates side).Nodup :=
  List.nodup_range.product List.nodup_range

/-- `TPL[k][r][c] <- TPL[k][r][c] xor 1`, with `p = (r, c)`. -/
def State.flipTplPixel (k : Nat) (t : State) (p : Nat × Nat) : State :=
  t.setTplPixel k p.1 p.2 (t.tplPixel k p.1 p.2 ^^ true)

theorem State.tplPixel_flipTplPixel (t : State) {k k' r c : Nat} {p : Nat × Nat} (hk : k' < 8) (hc : c < 8 * t.stride)
    (hp : p.2 < 8 * t.stride) :
    (t.flipTplPixel k p).tplPixel k' r c = (t.tplPixel k' r c ^^ (k' == k && decide ((r, c) = p))) := by
  obtain ⟨r', c'⟩ := p
  have hat : (k' == k && decide ((r, c) = (r', c'))) = decide (k' = k ∧ r = r' ∧ c = c') := by
    simp [beq_eq_decide]
  rw [flipTplPixel, State.tplPixel_setTplPixel t _ hk hc hp, hat]
  split_ifs with h
  · obtain ⟨rfl, rfl, rfl⟩ := h
    simp
  · simp [h]

/-- Flipping a list of modules without repetition flips exactly the modules of the list. -/
theorem State.tplPixel_foldl_flipTplPixel {k k' r c : Nat} (hk : k' < 8) (l : List (Nat × Nat)) (hl : l.Nodup) (t : State)
    (hc : c < 8 * t.stride) (hcol : ∀ p ∈ l, p.2 < 8 * t.stride) :
    (l.foldl (State.flipTplPixel k) t).tplPixel k' r c = (t.tplPixel k' r c ^^ (k' == k && decide ((r, c) ∈ l))) := by
  induction l generalizing t with
  | nil => simp
  | cons p l ih =>
    obtain ⟨hp, hl⟩ := List.nodup_cons.1 hl
    rw [List.foldl_cons, ih hl (t.flipTplPixel k p) hc fun q hq => hcol q (List.mem_cons_of_mem p hq),
      t.tplPixel_flipTplPixel hk hc (hcol p List.mem_cons_self)]
    by_cases hat : (r, c) = p
    · simp [hat, hp]
    · simp [hat]

/-! ### `MK.APPLY` (rules R166, R167) -/

theorem Role.masked_eq (x : Role) : Role.masked x = (x == .data || x == .check || x == .extra) := by
  cases x <;> rfl

theorem mkApply_eq_foldl (m k : Nat) (s : State) :
    mkApply m k s = ((coordinates s.side).filter fun p => Role.masked (s.cell p.1 p.2).role && mask m p.1 p.2).foldl
      (State.flipTplPixel k) s :=
  List.foldl_filter.symm

/-- `MK.APPLY m, k` flips the masked modules of `TPL[k]` and no other module. -/
theorem PlanShape.tplPixel_mkApply {s : State} (h : PlanShape s) (m k : Nat) {k' r c : Nat} (hk : k' < 8)
    (hc : c < 8 * s.stride) :
    (mkApply m k s).tplPixel k' r c =
      (s.tplPixel k' r c ^^ (k' == k && decide (r < s.side) && decide (c < s.side)
        && ((s.cell r c).role == .data || (s.cell r c).role == .check || (s.cell r c).role == .extra)
        && mask m r c)) := by
  rw [mkApply_eq_foldl, State.tplPixel_foldl_flipTplPixel hk _ ((coordinates_nodup s.side).filter _) s hc]
  · simp only [List.mem_filter, mem_coordinates, Role.masked_eq, Bool.decide_and, Bool.decide_eq_true, Bool.and_assoc]
  · intro p hp
    have hside := ((mem_coordinates s.side p.1 p.2).1 (List.mem_filter.1 hp).1).2
    exact hside.trans_le h.side_le_stride

@[simp] theorem State.finish_side (s : State) : s.finish.side = s.side := rfl
@[simp] theorem State.finish_cell (s : State) (r c : Nat) : s.finish.cell r c = s.cell r c := rfl

/-- A second `MK.APPLY m, k` flips the same modules, for the first changes neither a cell nor the plan (rule R167). -/
theorem PlanShape.tplPixel_mkApply_twice {s : State} (h : PlanShape s) (m k : Nat) {k' r c : Nat} (hk : k' < 8)
    (hc : c < 8 * s.stride) : (mkApply m k (mkApply m k s).finish).tplPixel k' r c = s.tplPixel k' r c := by
  have hframe := mkApply_sameButTemplates m k s
  have hshape : PlanShape (mkApply m k s).finish := by
    rw [hframe]
    exact ⟨h.version_lo, h.version_hi, h.side_eq, h.stride_eq, h.ncopy_eq⟩
  rw [hshape.tplPixel_mkApply m k hk (hframe.stride.symm ▸ hc), State.finish_tplPixel, h.tplPixel_mkApply m k hk hc,
    State.finish_side, State.finish_cell, hframe.side, hframe.cell, Bool.xor_assoc, Bool.xor_self, Bool.xor_false]

theorem precondition_mkApply_iff (m k : Nat) (s : State) :
    precondition (.mkApply m k) s = true ↔ s.status.layoutOk = true ∧ s.status.planOk = false := by
  simp [precondition]

theorem parametersInRange_mkApply_iff (m k : Nat) (s : State) : parametersInRange (.mkApply m k) s = true ↔ m ≤ 7 :=
  decide_eq_true_iff

theorem operandsInRange_mkApply_iff (m k : Nat) (s : State) :
    operandsInRange (.mkApply m k) s = true ↔ k ≤ 7 ∧ k < s.ncopy :=
  decide_eq_true_iff

/-- Settles O33: the effect visits every masked module once, and a second one flips the same modules back. -/
theorem mkApplyFlipsMaskedModules : Obligations.MkApplyFlipsMaskedModules := by
  intro m k s hf hs
  refine ⟨fun hlayout hp => ?_, fun hbad =>
    exec_badState (i := .mkApply m k) nofun hf ((precondition_mkApply_iff m k s).not.2 hbad)⟩
  have hpre := (precondition_mkApply_iff m k s).2 ⟨hlayout, hp⟩
  refine ⟨fun hm hk hcopy => ?_, fun hm => ?_, fun hm hbad => ?_⟩
  · have hready : Ready (.mkApply m k) s :=
      ⟨hf, hpre, (parametersInRange_mkApply_iff m k s).2 hm, (operandsInRange_mkApply_iff m k s).2 ⟨hk, hcopy⟩⟩
    have hready' : Ready (.mkApply m k) (mkApply m k s).finish := by
      rw [mkApply_sameButTemplates m k s]
      exact hready
    refine ⟨_, exec_done (i := .mkApply m k) nofun hready rfl, ?_, fun k' r c hk' hc => hs.tplPixel_mkApply m k hk' hc,
      _, exec_done (i := .mkApply m k) nofun hready' rfl, fun k' r c hk' hc => hs.tplPixel_mkApply_twice m k hk' hc⟩
    rw [mkApply_sameButTemplates m k s]
    rfl
  · exact exec_invalidParameter (i := .mkApply m k) nofun hf hpre ((parametersInRange_mkApply_iff m k s).not.2 hm)
  · exact exec_badOperand (i := .mkApply m k) nofun hf hpre ((parametersInRange_mkApply_iff m k s).2 hm)
      ((operandsInRange_mkApply_iff m k s).not.2 hbad)

end Sys2Proof.Machine
end

section
/-! PROOFS. The penalty scorer (rules R170 to R181): the five commands differ in the terms they write only,
and a term is a sum over the lines or the cells of the bitmap. -/

namespace Sys2Proof.Machine

open Sys2Proof.Claims

/-! ### The five commands (rule R170) -/

/-- The commands of the penalty scorer on the bitmap operand `src`. -/
def scoreCommands (src : Nat) : List Instr := [.psRun src, .psBox src, .psFind src, .psBal src, .psScore src]

/-- The tests of rule R212 for the five commands: the flag of the bitmap, and `src`. -/
theorem tests_of_mem_scoreCommands {src : Nat} {i : Instr} (hi : i ∈ scoreCommands src) (s : State) :
    i ≠ .reset ∧ precondition i s = sourceReady src s ∧ parametersInRange i s = true
      ∧ operandsInRange i s = decide (src ≤ 2) := by
  rw [sourceReady_eq]
  simp only [scoreCommands, List.mem_cons, List.not_mem_nil, or_false] at hi
  rcases hi with rfl | rfl | rfl | rfl | rfl <;> exact ⟨nofun, rfl, rfl, rfl⟩

/-- An operand in range names a bitmap; its flag, its side and its modules are those of rule R170. -/
theorem exists_source_of_le_two {src : Nat} (hsrc : src ≤ 2) (s : State) :
    sourceReady src s = scoredReady src s
      ∧ ∃ b, sourceOf src = some b ∧ scored src s = (sourceSide b s, sourceModules b s) := by
  match src with
  | 0 => exact ⟨rfl, .cand, rfl, rfl⟩
  | 1 => exact ⟨rfl, .out, rfl, rfl⟩
  | 2 => exact ⟨rfl, .work, rfl, rfl⟩

theorem sourceReady_of_not_le_two {src : Nat} (hsrc : ¬ src ≤ 2) (s : State) : sourceReady src s = true := by
  rw [sourceReady_eq, if_neg (by omega), if_neg (by omega), if_neg (by omega)]

/-- With a ready bitmap a scoring command is its effect on that bitmap, concluded. -/
theorem exec_of_scoredReady {src : Nat} {i : Instr} {f : Source → State → State} (hi : i ∈ scoreCommands src)
    (he : effectOf i = scoreEffect src f) {s : State} (hf : s.status.fatal = false) (hsrc : src ≤ 2)
    (hready : scoredReady src s = true) :
    ∃ b, scored src s = (sourceSide b s, sourceModules b s) ∧ exec i s = .next (f b s).finish := by
  obtain ⟨hne, hpre, hparam, hoperand⟩ := tests_of_mem_scoreCommands hi s
  obtain ⟨hflag, b, hb, hscored⟩ := exists_source_of_le_two hsrc s
  have hcommand : Ready i s :=
    ⟨hf, by rw [hpre, hflag, hready], hparam, by rw [hoperand, decide_eq_true hsrc]⟩
  exact ⟨b, hscored, exec_done hne hcommand (by rw [he, scoreEffect, hb])⟩

/-- Settles O38: the commands share their tests, and `PS.SCORE` writes the terms of one bitmap. -/
theorem psScoreAddsTheFourTerms : Obligations.PsScoreAddsTheFourTerms := by
  refine ⟨fun src s hf i hi => ?_, fun src s hf hsrc hready => ?_⟩
  · obtain ⟨hne, hpre, hparam, hoperand⟩ := tests_of_mem_scoreCommands hi s
    refine ⟨fun hsrc hready => exec_badState hne hf ?_, fun hsrc => exec_badOperand hne hf ?_ hparam ?_⟩
    · rw [hpre, (exists_source_of_le_two hsrc s).1, hready]
      exact Bool.false_ne_true
    · rw [hpre, sourceReady_of_not_le_two hsrc]
    · rw [hoperand, decide_eq_true_iff]
      exact hsrc
  · obtain ⟨b, hb, he⟩ := exec_of_scoredReady (i := .psScore src) (by simp [scoreCommands]) rfl hf hsrc hready
    rw [he, hb]
    rfl

/-! ### The lines (rule R171) -/

/-- A sum over the rows and the columns, line by line. -/
theorem sum_map_lines (f : List Bool → Nat) (side : Nat) (b : Modules) :
    ((lines side b).map f).sum = ∑ x ∈ Finset.range side,
      (f ((List.range side).map (b x)) + f ((List.range side).map fun r => b r x)) := by
  rw [lines, List.map_append, List.sum_append, List.map_map, List.map_map, Finset.sum_add_distrib]
  rfl

/-- A term of at most `n` in each line of length `side` is at most `2 · side · n` in all. -/
theorem sum_map_lines_le {f : List Bool → Nat} {side n : Nat} (b : Modules)
    (h : ∀ line, line.length = side → f line ≤ n) : ((lines side b).map f).sum ≤ side * (2 * n) := by
  have hline : ∀ g : Nat → Bool, f ((List.range side).map g) ≤ n := fun g =>
    h _ (by rw [List.length_map, List.length_range])
  rw [sum_map_lines]
  refine (Finset.sum_le_card_nsmul _ _ (2 * n) fun x _ => ?_).trans_eq (by rw [Finset.card_range, smul_eq_mul])
  have hrow := hline (b x)
  have hcolumn := hline fun r => b r x
  omega

/-- A sum that adds `n` where `p` holds is `n` times the number of such places. -/
theorem sum_ite_zero_eq_mul_card {ι : Type} (s : Finset ι) (p : ι → Prop) [DecidablePred p] (n : Nat) :
    (∑ x ∈ s, if p x then n else 0) = n * (s.filter p).card := by
  rw [← Finset.sum_filter, Finset.sum_const, smul_eq_mul, mul_comm]

/-! ### The run term (rule R172) -/

/-- Modules of its own colour lengthen the current run. -/
theorem runFrom_replicate_append (colour : Bool) (n m : Nat) (rest : List Bool) :
    runFrom colour n (List.replicate m colour ++ rest) = runFrom colour (n + m) rest := by
  induction m generalizing n with
  | zero => rfl
  | succ m ih =>
    rw [List.replicate_succ, List.cons_append, runFrom, if_pos rfl, ih]
    congr 1
    omega

/-- A module of the other colour, or the end of the line, closes the current run. -/
theorem runFrom_of_head?_ne {colour : Bool} {rest : List Bool} (h : rest.head? ≠ some colour) (n : Nat) :
    runFrom colour n rest = runPoints n + lineRun rest := by
  cases rest with
  | nil => rfl
  | cons x xs => rw [runFrom, if_neg fun hx => h (congrArg some hx), lineRun]

theorem lineRun_replicate_append {n : Nat} {colour : Bool} {rest : List Bool} (hn : 1 ≤ n)
    (h : rest.head? ≠ some colour) :
    lineRun (List.replicate n colour ++ rest) = runPoints n + lineRun rest := by
  obtain ⟨m, rfl⟩ := Nat.exists_eq_add_of_le hn
  rw [List.replicate_add, List.replicate_one, List.append_assoc, List.singleton_append, lineRun,
    runFrom_replicate_append, runFrom_of_head?_ne h]

/-- Settles O34: the counter of `runFrom` is the length of the current run. -/
theorem psRunAddsMaximalRuns : Obligations.PsRunAddsMaximalRuns := by
  refine ⟨fun src s hf hsrc hready => ?_, sum_map_lines lineRun, rfl, fun n colour rest => lineRun_replicate_append⟩
  obtain ⟨b, hb, he⟩ := exec_of_scoredReady (i := .psRun src) (by simp [scoreCommands]) rfl hf hsrc hready
  rw [he, hb]
  rfl

/-! ### The box term (rule R173) -/

theorem sum_map_interior (f : Nat → Nat) (side : Nat) :
    ((interior side).map f).sum = ∑ x ∈ Finset.range (side - 1), f (x + 1) := by
  rw [interior, List.map_map]
  rfl

theorem isBox_succ_succ_iff (b : Modules) (r c : Nat) :
    isBox b (r + 1) (c + 1) = true ↔
      b (r + 1) (c + 1) = b r (c + 1) ∧ b (r + 1) (c + 1) = b (r + 1) c ∧ b (r + 1) (c + 1) = b r c := by
  simp only [isBox, Bool.and_eq_true, beq_iff_eq, Nat.add_sub_cancel, and_assoc]

theorem boxTerm_eq_card (side : Nat) (b : Modules) :
    boxTerm side b = 3 * ((cells (side - 1)).filter fun p =>
      b (p.1 + 1) (p.2 + 1) = b p.1 (p.2 + 1) ∧ b (p.1 + 1) (p.2 + 1) = b (p.1 + 1) p.2
        ∧ b (p.1 + 1) (p.2 + 1) = b p.1 p.2).card := by
  simp only [boxTerm, sum_map_interior, isBox_succ_succ_iff]
  rw [← sum_ite_zero_eq_mul_card, cells, Finset.sum_product]

/-- Settles O35: the blocks are counted by their upper left cells. -/
theorem psBoxCountsBlocks : Obligations.PsBoxCountsBlocks := by
  refine ⟨fun src s hf hsrc hready => ?_, boxTerm_eq_card⟩
  obtain ⟨b, hb, he⟩ := exec_of_scoredReady (i := .psBox src) (by simp [scoreCommands]) rfl hf hsrc hready
  rw [he, hb]
  rfl

/-! ### The finder term (rules R174 to R177) -/

theorem matchesAt_iff (line : List Bool) (start : Int) (p : List Bool) :
    matchesAt line start p = true ↔ ∀ i < p.length, extended line (start + i) = p.getD i false := by
  induction p generalizing start with
  | nil => simp [matchesAt]
  | cons x xs ih =>
    have hnext : ∀ i : Nat, start + 1 + (i : Int) = start + ((i + 1 : Nat) : Int) := fun i => by omega
    simp only [matchesAt, Bool.and_eq_true, beq_iff_eq, ih, hnext]
    rw [List.length_cons, Nat.forall_lt_succ_left, Nat.cast_zero, add_zero]
    rfl

/-- A pattern of 12 modules matches where it occurs. -/
theorem matchesAt_iff_occurs {p : List Bool} (hp : p.length = 12) (line : List Bool) (start : Int) :
    matchesAt line start p = true ↔ Occurs line p start := by
  rw [matchesAt_iff, hp, Occurs, Fin.forall_iff]
  rfl

theorem intRange_eq_map (lo hi : Int) :
    intRange lo hi = (List.range (hi - lo + 1).toNat).map fun i : Nat => lo + (i : Int) := by
  simp only [intRange, bind_pure_comp, List.map_eq_map, List.map_map]
  rfl

theorem mem_intRange {lo hi x : Int} : x ∈ intRange lo hi ↔ lo ≤ x ∧ x ≤ hi := by
  simp only [intRange_eq_map, List.mem_map, List.mem_range]
  constructor
  · rintro ⟨i, hi, rfl⟩
    omega
  · rintro ⟨hlo, hhi⟩
    exact ⟨(x - lo).toNat, by omega, by omega⟩

theorem intRange_nodup (lo hi : Int) : (intRange lo hi).Nodup := by
  rw [intRange_eq_map]
  exact List.nodup_range.map fun i j hij => by simpa using hij

theorem toFinset_intRange (lo hi : Int) : (intRange lo hi).toFinset = Finset.Icc lo hi := by
  ext x
  rw [List.mem_toFinset, mem_intRange, Finset.mem_Icc]

/-- The points of one pattern in its window. -/
theorem sum_matchesAt_intRange {p : List Bool} (hp : p.length = 12) (line : List Bool) (lo hi : Int) :
    ((intRange lo hi).map fun start => if matchesAt line start p then 40 else 0).sum
      = 40 * (occurrences line p lo hi).card := by
  classical
  simp only [matchesAt_iff_occurs hp]
  rw [← List.sum_toFinset _ (intRange_nodup lo hi), toFinset_intRange, sum_ite_zero_eq_mul_card]
  congr!

theorem lineFind_core9 (line : List Bool) :
    lineFind .core9 line = 40 * (occurrences line patternP1 (-3) (line.length - 12)).card
      + 40 * (occurrences line patternP2 0 (line.length - 9)).card := by
  rw [← sum_matchesAt_intRange rfl, ← sum_matchesAt_intRange rfl]
  rfl

theorem lineFind_core7 (line : List Bool) :
    lineFind .core7 line = 40 * (occurrences line patternP1 (-4) (line.length - 11)).card
      + 40 * (occurrences line patternP2 (-1) (line.length - 8)).card := by
  rw [← sum_matchesAt_intRange rfl, ← sum_matchesAt_intRange rfl]
  rfl

/-- Settles O36: a pattern matches at a start exactly when it occurs there, and a window is an interval. -/
theorem psFindCountsOccurrences : Obligations.PsFindCountsOccurrences := by
  refine ⟨fun src s hf hsrc hready => ?_, fun edge => sum_map_lines (lineFind edge), rfl, rfl, fun line =>
    ⟨lineFind_core9 line, lineFind_core7 line⟩⟩
  obtain ⟨b, hb, he⟩ := exec_of_scoredReady (i := .psFind src) (by simp [scoreCommands]) rfl hf hsrc hready
  rw [he, hb]
  rfl

/-! ### The balance term (rule R178) -/

theorem count_true_rowLine (side : Nat) (b : Modules) (r : Nat) :
    (rowLine side b r).count true = ∑ c ∈ Finset.range side, if b r c = true then 1 else 0 := by
  have hblack : (fun x => x == true) ∘ b r = fun c => decide (b r c = true) := by
    funext c
    simp
  rw [sum_ite_zero_eq_mul_card, one_mul, rowLine, List.count, List.countP_map, hblack, List.countP_eq_length_filter]
  rfl

theorem blackCount_eq_card (side : Nat) (b : Modules) :
    blackCount side b = ((cells side).filter fun p => b p.1 p.2 = true).card := by
  rw [← one_mul (Finset.card _), ← sum_ite_zero_eq_mul_card, cells, Finset.sum_product]
  simp only [blackCount, count_true_rowLine]
  rfl

/-- The modules of an odd number are never half black: the lesser colour has fewer than half of them. -/
theorem fold_div_le_nine {total : Nat} (hodd : total % 2 = 1) (black : Nat) :
    min black (total - black) * 20 / total ≤ 9 := by
  have hhalf : 2 * min black (total - black) ≤ total := by omega
  rw [← Nat.lt_succ_iff, Nat.div_lt_iff_lt_mul (by omega)]
  omega

/-- Settles O37: `blackCount` is the number of black cells, and the square of an odd side is odd. -/
theorem psBalFoldsTheBlackCount : Obligations.PsBalFoldsTheBlackCount := by
  refine ⟨fun src s hf hsrc hready => ?_, fun side b hodd => ?_⟩
  · obtain ⟨b, hb, he⟩ := exec_of_scoredReady (i := .psBal src) (by simp [scoreCommands]) rfl hf hsrc hready
    rw [he, hb]
    rfl
  · have hle := fold_div_le_nine (show side * side % 2 = 1 by rw [Nat.mul_mod, hodd]) (blackCount side b)
    rw [balTerm, balanceOf, ← blackCount_eq_card]
    have hterm : ∀ q ≤ 9, (9 - q) * 10 + 10 * q = 90 := fun q hq => by omega
    exact ⟨hle, hterm _ hle⟩

/-! ### The bounds (rule R181) -/

/-- What the current run and the rest of the line add. -/
theorem runFrom_le (colour : Bool) (n : Nat) (line : List Bool) : runFrom colour n line ≤ n + line.length - 2 := by
  induction line generalizing colour n with
  | nil => simp only [runFrom, runPoints]; split <;> simp
  | cons x xs ih =>
    rw [runFrom, List.length_cons]
    split_ifs
    · exact (ih colour (n + 1)).trans_eq (by omega)
    · have hrest := ih x 1
      unfold runPoints
      split_ifs <;> omega

theorem lineRun_le (line : List Bool) : lineRun line ≤ line.length - 2 := by
  cases line with
  | nil => exact Nat.zero_le _
  | cons x xs => exact (runFrom_le x 1 xs).trans_eq (by rw [List.length_cons, Nat.add_comm])

/-- A window holds at most its starts. -/
theorem card_occurrences_le (line p : List Bool) (lo hi : Int) :
    (occurrences line p lo hi).card ≤ (hi + 1 - lo).toNat := by
  classical
  exact (Finset.card_filter_le _ _).trans_eq (Int.card_Icc lo hi)

theorem lineFind_le (edge : FinderEdge) (line : List Bool) : lineFind edge line ≤ 40 * (2 * (line.length + 1)) := by
  cases edge with
  | core9 =>
    have hP1 := card_occurrences_le line patternP1 (-3) (line.length - 12)
    have hP2 := card_occurrences_le line patternP2 0 (line.length - 9)
    rw [lineFind_core9]
    omega
  | core7 =>
    have hP1 := card_occurrences_le line patternP1 (-4) (line.length - 11)
    have hP2 := card_occurrences_le line patternP2 (-1) (line.length - 8)
    rw [lineFind_core7]
    omega

section
variable {side : Nat} (b : Modules) (hside : side ≤ 177)
include hside

theorem runTerm_le : runTerm side b ≤ 61950 :=
  calc runTerm side b ≤ side * (2 * 175) :=
        sum_map_lines_le b fun line hline => (lineRun_le line).trans (by omega)
    _ ≤ 61950 := by omega

theorem boxTerm_le : boxTerm side b ≤ 92928 := by
  have hcells : (cells (side - 1)).card ≤ 176 * 176 := by
    rw [cells, Finset.card_product, Finset.card_range]
    exact Nat.mul_le_mul (by omega) (by omega)
  rw [boxTerm_eq_card]
  exact (Nat.mul_le_mul_left 3 (Finset.card_filter_le _ _)).trans (by omega)

theorem findTerm_le (edge : FinderEdge) : findTerm edge side b ≤ 5040960 :=
  calc findTerm edge side b ≤ side * (2 * (40 * (2 * 178))) :=
        sum_map_lines_le b fun line hline => (lineFind_le edge line).trans (by omega)
    _ ≤ 5040960 := by omega

end

theorem balTerm_le (side : Nat) (b : Modules) : balTerm side b ≤ 90 := by
  exact Nat.mul_le_mul_right 10 (Nat.sub_le 9 _)

/-- Settles O39: each line's bound times the number of lines; a total below `2^23` is exact in 32 bits. -/
theorem penaltyTermsAreBounded : Obligations.PenaltyTermsAreBounded := by
  refine ⟨fun edge line => ⟨lineRun_le line, lineFind_le edge line⟩, fun edge side b hside => ?_⟩
  have hrun := runTerm_le b hside
  have hbox := boxTerm_le b hside
  have hfind := findTerm_le b hside edge
  have hbal := balTerm_le side b
  have htotal : penalty edge side b < 2 ^ 23 := by
    unfold penalty
    omega
  exact ⟨hrun, hbox, hfind, hbal, htotal, by rw [BitVec.toNat_ofNat, Nat.mod_eq_of_lt (by omega)]⟩

end Sys2Proof.Machine
end

section
/-! PROOFS. The encode commands (rules R191 to R195): `EN.PLACE` lays the ground and XORs each codeword bit into
its own module, `EN.CAND` and `EN.KEEP` write one bitmap byte by byte, and `EN.ENCODE` is its two commands. -/

namespace Sys2Proof.Machine

open Sys2Proof.Claims

/-! ### The preconditions (rule R108) -/

theorem State.ncopy_eq_eight_iff (s : State) : s.ncopy = 8 ↔ s.plan.ncopy = 8 :=
  BitVec.toNat_inj (x := s.plan.ncopy) (y := 8)

theorem precondition_enCand_iff (k : Nat) (s : State) :
    precondition (.enCand k) s = true ↔ s.status.workOk = true ∧ s.ncopy = 8 := by
  simp [precondition, s.ncopy_eq_eight_iff]

theorem operandsInRange_enCand_iff {s : State} (hn : s.ncopy = 8) (k : Nat) :
    operandsInRange (.enCand k) s = true ↔ k ≤ 7 := by
  have hcopy : s.plan.ncopy.toNat = 8 := hn
  simp only [operandsInRange, decide_eq_true_iff, hcopy]
  omega

/-! ### A bitmap written byte by byte (rules R191 to R193) -/

theorem byteAt_writeList_range (m : Memory Byte) (free f : Nat → Byte) (n j : Nat) :
    byteAt (Memory.writeList m ((List.range n).map f)) free j = if j < n then f j else byteAt m free j := by
  rw [byteAt_writeList]
  simp

theorem enCand_candByte (k : Nat) (s : State) (j : Nat) :
    (enCand k s).candByte j = if j < s.stride * s.side then s.workByte j ^^^ s.tplByte k j else s.candByte j :=
  byteAt_writeList_range s.cand _ _ _ j

theorem State.copyCand_outByte (s : State) (j : Nat) :
    s.copyCand.outByte j = if j < s.stride * s.side then s.candByte j else s.outByte j :=
  byteAt_writeList_range s.out _ _ _ j

/-- Settles O42: the effect writes `CAND` from the list of its bytes. -/
theorem enCandXorsTemplate : Obligations.EnCandXorsTemplate := by
  intro k s hf
  refine ⟨fun hwork hn => ?_, fun hbad =>
    exec_badState (i := .enCand k) nofun hf ((precondition_enCand_iff k s).not.2 hbad)⟩
  have hpre := (precondition_enCand_iff k s).2 ⟨hwork, hn⟩
  refine ⟨fun hk => ?_, fun hk =>
    exec_badOperand (i := .enCand k) nofun hf hpre rfl ((operandsInRange_enCand_iff hn k).not.2 hk)⟩
  have hready : Ready (.enCand k) s := ⟨hf, hpre, rfl, (operandsInRange_enCand_iff hn k).2 hk⟩
  exact ⟨(enCand k s).finish, exec_done (i := .enCand k) nofun hready rfl, rfl, enCand_candByte k s⟩

/-- Settles O43: the effect writes `OUT` from the list of the bytes of `CAND`. -/
theorem enKeepCopiesCandidate : Obligations.EnKeepCopiesCandidate := by
  intro s hf
  refine ⟨fun hcand => ?_, fun hbad => exec_badState (i := .enKeep) nofun hf (by simp [precondition, hbad])⟩
  exact ⟨(enKeep s).finish, exec_done (i := .enKeep) nofun ⟨hf, hcand, rfl, rfl⟩ rfl, rfl, s.copyCand_outByte⟩

/-! ### `EN.PLACE` (rule R191) -/

/-- `WORK` holds the ground and no codeword bit yet. -/
def State.withGround (s : State) : State := { s with work := Memory.writeList s.work (workGround s) }

theorem State.workByte_withGround (s : State) (j : Nat) :
    s.withGround.workByte j =
      if j < s.stride * s.side then (if s.ncopy = 1 then s.tplByte 0 j else 0) else s.workByte j :=
  byteAt_writeList_range s.work _ _ _ j

/-- The ground inside the bitmap: the module of the only template, or white. -/
theorem State.workPixel_withGround (s : State) {r c : Nat} (hr : r < s.side) (hc : c < 8 * s.stride) :
    s.withGround.workPixel r c = (s.ncopy == 1 && s.tplPixel 0 r c) := by
  have hbyte := s.workByte_withGround (pixelByte s.stride r c)
  rw [if_pos (pixelByte_lt hr hc)] at hbyte
  unfold State.workPixel State.tplPixel pixel
  rw [show s.withGround.stride = s.stride from rfl, hbyte]
  split_ifs with hn <;> simp [hn]

/-- The codeword bit of cell `p = (r, c)`: that of the cell's offset (rule R72). -/
def State.codewordBit (s : State) (p : Nat × Nat) : Bool := streamBit s.cwByte (s.cell p.1 p.2).off.toNat

/-- `WORK[r][c] <- WORK[r][c] xor bit (r, c)`, with `p = (r, c)`. -/
def State.xorWork (bit : Nat × Nat → Bool) (t : State) (p : Nat × Nat) : State := t.xorWorkPixel p.1 p.2 (bit p)

theorem placeBits_eq_foldl (s : State) :
    placeBits s = ((coordinates s.side).filter fun p => Role.carriesBit (s.cell p.1 p.2).role).foldl
      (State.xorWork s.codewordBit) s :=
  List.foldl_filter.symm

theorem State.workPixel_xorWork (bit : Nat × Nat → Bool) (t : State) {r c : Nat} {p : Nat × Nat} (hc : c < 8 * t.stride)
    (hp : p.2 < 8 * t.stride) :
    (t.xorWork bit p).workPixel r c = (t.workPixel r c ^^ (decide ((r, c) = p) && bit p)) := by
  obtain ⟨r', c'⟩ := p
  simp only [Prod.mk.injEq]
  exact pixel_xorPixel t.work _ _ hc hp

/-- XORing bits into a list of modules without repetition XORs each module's own bit into it, once. -/
theorem State.workPixel_foldl_xorWork (bit : Nat × Nat → Bool) {r c : Nat} (l : List (Nat × Nat)) (hl : l.Nodup) (t : State)
    (hc : c < 8 * t.stride) (hcol : ∀ p ∈ l, p.2 < 8 * t.stride) :
    (l.foldl (State.xorWork bit) t).workPixel r c = (t.workPixel r c ^^ (decide ((r, c) ∈ l) && bit (r, c))) := by
  induction l generalizing t with
  | nil => simp
  | cons p l ih =>
    obtain ⟨hp, hl⟩ := List.nodup_cons.1 hl
    rw [List.foldl_cons, ih hl (t.xorWork bit p) hc fun q hq => hcol q (List.mem_cons_of_mem p hq),
      t.workPixel_xorWork bit hc (hcol p List.mem_cons_self)]
    by_cases hat : (r, c) = p
    · simp [hat, hp]
    · simp [hat]

/-- A byte that holds none of the modules of the list is unchanged. -/
theorem State.workByte_foldl_xorWork (bit : Nat × Nat → Bool) {j : Nat} (l : List (Nat × Nat)) (t : State)
    (hj : ∀ p ∈ l, pixelByte t.stride p.1 p.2 ≠ j) : (l.foldl (State.xorWork bit) t).workByte j = t.workByte j := by
  induction l generalizing t with
  | nil => rfl
  | cons p l ih =>
    rw [List.foldl_cons, ih (t.xorWork bit p) fun q hq => hj q (List.mem_cons_of_mem p hq)]
    exact (byteAt_set _ _ _ _ _).trans (if_neg (hj p List.mem_cons_self))

theorem Role.carriesBit_eq (x : Role) : Role.carriesBit x = (x == .data || x == .check) := by
  cases x <;> rfl

section
variable {s : State} (h : PlanShape s)
include h

theorem PlanShape.workPixel_placeBits {r c : Nat} (hr : r < s.side) (hc : c < 8 * s.stride) :
    (placeBits s).workPixel r c =
      (s.workPixel r c ^^ (decide (c < s.side) && ((s.cell r c).role == .data || (s.cell r c).role == .check)
        && s.codewordBit (r, c))) := by
  rw [placeBits_eq_foldl, State.workPixel_foldl_xorWork _ _ ((coordinates_nodup s.side).filter _) s hc]
  · simp only [List.mem_filter, mem_coordinates, hr, true_and, Role.carriesBit_eq, Bool.decide_and, Bool.decide_eq_true]
  · intro p hp
    have hside := ((mem_coordinates s.side p.1 p.2).1 (List.mem_filter.1 hp).1).2
    exact hside.trans_le h.side_le_stride

theorem PlanShape.workByte_placeBits {j : Nat} (hj : s.stride * s.side ≤ j) : (placeBits s).workByte j = s.workByte j := by
  rw [placeBits_eq_foldl]
  refine State.workByte_foldl_xorWork _ _ _ fun p hp => ?_
  obtain ⟨hr, hc⟩ := (mem_coordinates s.side p.1 p.2).1 (List.mem_filter.1 hp).1
  have hlt := pixelByte_lt hr (hc.trans_le h.side_le_stride)
  omega

theorem PlanShape.withGround : PlanShape s.withGround :=
  ⟨h.version_lo, h.version_hi, h.side_eq, h.stride_eq, h.ncopy_eq⟩

end

/-- The state `EN.PLACE` leaves, its end apart, when `CWLEN` is the record's byte count. -/
def State.afterPlace (s : State) : State :=
  { placeBits s.withGround with status := (placeBits s.withGround).status.placed }

theorem enPlace_of_bytes {s : State} (h : s.cwlen.toNat = s.capEntry.bytes.toNat) : enPlace s = .done s.afterPlace :=
  if_neg (not_not_intro h)

theorem enPlace_of_mismatch {s : State} (h : s.cwlen.toNat ≠ s.capEntry.bytes.toNat) :
    enPlace s = .fatal .byteCountMismatch :=
  if_pos h

/-- Settles O41: the ground is laid, and each Data and Check cell is visited once. -/
theorem enPlaceXorsCodewordBits : Obligations.EnPlaceXorsCodewordBits := by
  intro s hf hs
  refine ⟨fun hlayout => ?_, fun hbad => exec_badState (i := .enPlace) nofun hf (by simp [precondition, hbad])⟩
  have hready : Ready .enPlace s := ⟨hf, hlayout, rfl, rfl⟩
  refine ⟨fun hbytes => ?_, fun hbytes => exec_fatal (i := .enPlace) nofun hready (enPlace_of_mismatch hbytes)⟩
  have hdone := enPlace_of_bytes hbytes
  refine ⟨s.afterPlace.finish, exec_done (i := .enPlace) nofun hready hdone, ?_, fun r c hr hc => ?_, fun j hj => ?_⟩
  · obtain ⟨-, hframe⟩ := enPlace_done hdone
    rw [hframe]
    rfl
  · have hplace := hs.withGround.workPixel_placeBits hr hc
    rw [s.workPixel_withGround hr hc] at hplace
    exact hplace
  · calc
      (placeBits s.withGround).workByte j = s.withGround.workByte j := hs.withGround.workByte_placeBits hj
      _ = s.workByte j := by rw [s.workByte_withGround, if_neg (Nat.not_lt.2 hj)]

/-! ### `EN.ENCODE` (rule R195) -/

/-- Candidate `k` made, scored and its total noted: a turn of the search but for what is kept (rule R194). -/
def State.scoreCandidate (s : State) (k : Nat) : State :=
  let t := psScore .cand (enCand k s)
  { t with pen := { t.pen with penm := t.pen.penm.setIfInBounds k t.pen.total } }

theorem searchTurn_none (s : State) (k : Nat) : searchTurn (s, none) k = ((s.scoreCandidate k).copyCand, some k) := rfl

theorem searchTurn_some (s : State) (best k : Nat) :
    searchTurn (s, some best) k =
      if (s.scoreCandidate k).pen.total < (s.scoreCandidate k).penm best then ((s.scoreCandidate k).copyCand, some k)
      else (s.scoreCandidate k, some best) := rfl

theorem State.scoreCandidate_finish (s : State) (k : Nat) : s.finish.scoreCandidate k = (s.scoreCandidate k).finish := rfl

/-- A turn of the search does not see how the last command ended. -/
theorem searchTurn_finish (acc : State × Option Nat) (k : Nat) :
    searchTurn (Prod.map State.finish id acc) k = Prod.map State.finish id (searchTurn acc k) := by
  obtain ⟨s, _ | best⟩ := acc
  · exact searchTurn_none s.finish k
  · rw [searchTurn_some, apply_ite (Prod.map State.finish id)]
    exact searchTurn_some s.finish best k

theorem searchTurns_finish (l : List Nat) (s : State) :
    l.foldl searchTurn (s.finish, none) = Prod.map State.finish id (l.foldl searchTurn (s, none)) :=
  List.foldl_hom (Prod.map State.finish id) (init := (s, none)) searchTurn_finish

theorem search_finish (s : State) : search s.finish = (search s).finish := by
  unfold search
  rw [searchTurns_finish]
  generalize (List.range 8).foldl searchTurn (s, none) = acc
  rfl

/-- `EN.SELECT` does not see how the last command ended. -/
theorem enSelect_finish (s : State) : enSelect s.finish = (enSelect s).finish := by
  unfold enSelect
  rw [apply_ite State.finish, search_finish]
  rfl

theorem enSelect_flags_of_eight {s : State} (hn : s.ncopy = 8) :
    (enSelect s).status.candOk = true ∧ (enSelect s).status.penOk = true := by
  rw [enSelect, if_neg (by omega)]
  exact ⟨rfl, rfl⟩

theorem enSelect_flags_of_one {s : State} (hn : s.ncopy = 1) :
    (enSelect s).status.candOk = s.status.candOk ∧ (enSelect s).status.penOk = false := by
  rw [enSelect, if_pos hn]
  exact ⟨rfl, rfl⟩

theorem enEncode_of_enPlace_done {s u : State} (h : enPlace s = .done u) : enEncode s = .done (enSelect u) := by
  rw [enEncode, h, Effect.andThen_done]

theorem enEncode_of_enPlace_fatal {s : State} {code : FatalCode} (h : enPlace s = .fatal code) :
    enEncode s = .fatal code := by
  rw [enEncode, h, Effect.andThen_fatal]

/-- `EN.ENCODE` in its precondition, when `EN.PLACE` completes, is its two commands issued one by one. -/
theorem enEncode_chain {s u : State} (hready : Ready .enEncode s) (hu : enPlace s = .done u) :
    Chain [.enPlace, .enSelect] s (enSelect u).finish := by
  obtain ⟨hf, hlayout, -, -⟩ := hready
  obtain ⟨-, hframe⟩ := enPlace_done hu
  have hplace : exec .enPlace s = .next u.finish := exec_done (i := .enPlace) nofun ⟨hf, hlayout, rfl, rfl⟩ hu
  have hselect : exec .enSelect u.finish = .next (enSelect u.finish).finish := by
    refine exec_done (i := .enSelect) nofun ⟨?_, ?_, rfl, rfl⟩ rfl <;> rw [hframe]
    · exact hf
    · rfl
  rw [enSelect_finish, State.finish_finish] at hselect
  exact ⟨_, hplace, rfl, _, hselect, rfl, rfl⟩

/-- Settles O46: the effect is that of the two commands, and `EN.SELECT` does not see the end of `EN.PLACE`. -/
theorem enEncodeIsItsTwoCommands : Obligations.EnEncodeIsItsTwoCommands := by
  intro s hf
  refine ⟨fun hlayout => ?_, fun hbad => exec_badState (i := .enEncode) nofun hf (by simp [precondition, hbad])⟩
  have hready : Ready .enEncode s := ⟨hf, hlayout, rfl, rfl⟩
  refine ⟨fun hbytes => ?_, fun hbytes =>
    exec_fatal (i := .enEncode) nofun hready (enEncode_of_enPlace_fatal (enPlace_of_mismatch hbytes))⟩
  obtain ⟨u, hu⟩ : ∃ u, enPlace s = .done u := ⟨_, enPlace_of_bytes hbytes⟩
  obtain ⟨-, hframe⟩ := enPlace_done hu
  have hncopy : u.ncopy = s.ncopy := by rw [hframe]; rfl
  refine ⟨(enSelect u).finish, exec_done (i := .enEncode) nofun hready (enEncode_of_enPlace_done hu),
    enEncode_chain hready hu, ?_, ?_, fun hn => ?_, fun hn => ?_⟩
  · rw [enSelect_frame, hframe]
    rfl
  · rw [enSelect_frame]
    rfl
  · exact enSelect_flags_of_eight (hncopy.trans hn)
  · obtain ⟨hcand, hpen⟩ := enSelect_flags_of_one (hncopy.trans hn)
    exact ⟨hcand.trans (by rw [hframe]; rfl), hpen⟩

end Sys2Proof.Machine
end

section
/-! PROOFS. What writes a plan (rule R190): the commands of the penalty scorer and the encoder only read it, and a sealed
plan rejects the others but those that start one. -/

namespace Sys2Proof.Machine

/-- The grid, the templates, the sequence and the plan registers of `t` are those of `s`. -/
abbrev SamePlan (s t : State) : Prop :=
  t.grid = s.grid ∧ t.seq = s.seq ∧ t.tpl = s.tpl ∧ t.plan = s.plan ∧ t.engineStamp = s.engineStamp

theorem SamePlan.trans {s t u : State} (h : SamePlan s t) (h' : SamePlan t u) : SamePlan s u := by
  obtain ⟨hgrid, hseq, htpl, hplan, hstamp⟩ := h
  obtain ⟨hgrid', hseq', htpl', hplan', hstamp'⟩ := h'
  exact ⟨hgrid'.trans hgrid, hseq'.trans hseq, htpl'.trans htpl, hplan'.trans hplan, hstamp'.trans hstamp⟩

/-- `NOP` and the commands of the penalty scorer and the encoder: those that only read a plan. -/
def onlyReadsPlan : Instr → Bool
  | .nop | .psRun _ | .psBox _ | .psFind _ | .psBal _ | .psScore _ | .enPlace | .enCand _ | .enKeep | .enSelect
  | .enEncode => true
  | _ => false

theorem enSelect_samePlan (s : State) : SamePlan s (enSelect s) := by
  rw [enSelect_frame]
  exact ⟨rfl, rfl, rfl, rfl, rfl⟩

theorem enPlace_samePlan {s t : State} (h : enPlace s = .done t) : SamePlan s t := by
  rw [(enPlace_done h).2]
  exact ⟨rfl, rfl, rfl, rfl, rfl⟩

/-- A command that only reads a plan keeps it when it completes. -/
theorem effectOf_samePlan {i : Instr} (hi : onlyReadsPlan i = true) {s t : State} (h : effectOf i s = .done t) :
    SamePlan s t := by
  cases i with
  | psRun | psBox | psFind | psBal | psScore =>
    rcases scoreEffect_done h with ⟨b, -, rfl⟩ | ⟨-, rfl⟩ <;> exact ⟨rfl, rfl, rfl, rfl, rfl⟩
  | enPlace => exact enPlace_samePlan h
  | enSelect => cases h; exact enSelect_samePlan s
  | enEncode =>
    obtain ⟨u, hu, ht⟩ := Effect.andThen_eq_done h
    cases ht
    exact (enPlace_samePlan hu).trans (enSelect_samePlan u)
  | nop | enCand | enKeep => cases h; exact ⟨rfl, rfl, rfl, rfl, rfl⟩
  | _ => cases hi

/-- A sealed plan rejects every command that writes a plan but `GP.INIT`, `GP.ALL` and `PL.PLAN` (rule R108): it is finished
(`GPSTEP = 6`) and no longer open. -/
theorem onlyReadsPlan_of_sealed {i : Instr} {s : State} (hc : FlagsCoherent s) (hp : s.status.planOk = true)
    (hready : Ready i s) (hreset : i ≠ .reset) (hplan : i ≠ .plPlan) (hinit : ∀ n, i ≠ .gpInit n)
    (hall : ∀ n, i ≠ .gpAll n) : onlyReadsPlan i = true := by
  obtain ⟨-, hpre, -, -⟩ := hready
  have hstep : s.status.gpstep = 6 := by
    have hgrid := hc.layout_gridOk (hc.plan_layout hp)
    simp only [Status.gridOk, Bool.and_eq_true, beq_iff_eq] at hgrid
    exact hgrid.2
  cases i with
  | reset => exact absurd rfl hreset
  | plPlan => exact absurd rfl hplan
  | gpInit n => exact absurd rfl (hinit n)
  | gpAll n => exact absurd rfl (hall n)
  | gpTiming | gpFinder | gpAlign | gpVerinfo | gpFmtrsv | gpDark => simp [precondition, hstep] at hpre
  | blParam | blIlv | blSweep | blAll | fiEnc | fiPaint | fiPlan | mkApply => simp [precondition, hp] at hpre
  | _ => rfl

/-- A command that runs no effect but one that only reads the plan, and raises no `Fatal`, keeps the plan. -/
theorem exec_samePlan {i : Instr} (hi : i ≠ .reset) {s t : State} (h : exec i s = .next t)
    (hfatal : t.status.fatal = s.status.fatal) (hreads : Ready i s → onlyReadsPlan i = true) : SamePlan s t := by
  rcases exec_next_cases hi h with ⟨code, rfl, -⟩ | ⟨hready, u, hu, rfl⟩ | ⟨⟨hf, -⟩, code, -, rfl⟩
  · exact ⟨rfl, rfl, rfl, rfl, rfl⟩
  · exact (effectOf_samePlan (hreads hready) hu :)
  · simp [hf] at hfatal

/-- Settles O59: of the commands that write a plan, those not excepted are rejected on a sealed one. -/
theorem builtPlanIsReadOnly : Obligations.BuiltPlanIsReadOnly := by
  intro i s t h hfatal hwhich
  rcases hwhich with hreads | ⟨hc, hp, hreset, hplan, hinit, hall⟩
  · have honly : onlyReadsPlan i = true := by
      rcases hreads with rfl | ⟨k, rfl⟩ | rfl | rfl | rfl | ⟨src, rfl | rfl | rfl | rfl | rfl⟩ <;> rfl
    refine exec_samePlan ?_ h hfatal fun _ => honly
    rintro rfl
    cases honly
  · exact exec_samePlan hreset h hfatal fun hready => onlyReadsPlan_of_sealed hc hp hready hreset hplan hinit hall

end Sys2Proof.Machine
end

section
/-! PROOFS. The system commands (rules R200, R201): `NOP` is its end alone, and `RESET` and the hardware reset input are the
reset event (rule R240), after which no flag makes the engine's memories readable. -/

namespace Sys2Proof.Machine

/-! ### The reads of an idle block (rule R86) -/

theorem memRead_of_idle {s : State} {addr : BitVec 20} {width : Nat} {loc : Location} (hb : s.status.busy = false)
    (hl : locationOf addr width = some loc) : memRead s addr width = readLocation s loc := by
  simp [memRead, hl, hb]

/-- From 0x2000 on, every read fails when no location in the engine's memories can be read. -/
theorem memRead_eq_none_of_inEngineMemory {s : State} {addr : BitVec 20} (width : Nat) (ha : 0x2000 ≤ addr.toNat)
    (hnone : ∀ loc, inEngineMemory loc = true → readLocation s loc = none) : memRead s addr width = none := by
  have hall := locationOf_inEngineMemory width ha
  unfold memRead
  cases hloc : locationOf addr width with
  | none => rfl
  | some loc =>
    rw [hloc, Option.all_some] at hall
    simp [hnone loc hall]

/-- The byte at 0x1000 + `j` of the window is byte `j` of `CW` (rule R80). -/
theorem locationOf_cw {j : Nat} (hj : j < 0x1000) : locationOf (BitVec.ofNat 20 (0x1000 + j)) 1 = some (.cw j) := by
  have ha : (BitVec.ofNat 20 (0x1000 + j)).toNat = 0x1000 + j := by rw [BitVec.toNat_ofNat]; omega
  change byteLocation (BitVec.ofNat 20 (0x1000 + j)).toNat = some (.cw j)
  rw [ha, byteLocation, if_neg (by omega), if_pos (by omega), Nat.add_sub_cancel_left]

/-! ### What the host reads after the reset event (rule R54) -/

theorem readLocation_resetEvent (s : State) {loc : Location} (hloc : inEngineMemory loc = true) :
    readLocation s.resetEvent loc = none := by
  cases loc with
  | register | cap | cw => cases hloc
  | _ => simp [readLocation, Status.zero]

theorem memRead_resetEvent_id (s : State) : memRead s.resetEvent 0x00 4 = some 0x51524750 :=
  memRead_of_idle (loc := .register 0x00) rfl rfl

theorem memRead_resetEvent_cw (s : State) {j : Nat} (hj : j < 0x1000) :
    memRead s.resetEvent (BitVec.ofNat 20 (0x1000 + j)) 1 = some (byteValue (s.resetEvent.cwByte j)) :=
  memRead_of_idle rfl (locationOf_cw hj)

theorem step_hardReset {s : State} {es : List Event} (he : s.port.events = .hardReset :: es) :
    step s = .next (s.withEvents es).resetEvent := by
  simp only [step, he]

theorem resetEvent_withEvents (s : State) (es : List Event) :
    (s.withEvents es).resetEvent = s.resetEvent.withEvents es := rfl

/-! ### The two commands -/

/-- Settles O11: both roads lead to the reset event, which does not see the list of events (rules R201, R240). -/
theorem resetEventFromAnyState : Obligations.ResetEventFromAnyState := by
  intro s
  have hmem (addr : BitVec 20) (width : Nat) (ha : 0x2000 ≤ addr.toNat) : memRead s.resetEvent addr width = none :=
    memRead_eq_none_of_inEngineMemory width ha fun _ => readLocation_resetEvent s
  have hhard (es : List Event) (he : s.port.events = .hardReset :: es) :
      step s = .next (s.resetEvent.withEvents es) := by
    rw [step_hardReset he, resetEvent_withEvents]
  exact ⟨s.resetEvent, rfl, rfl, rfl, rfl, rfl, rfl, rfl, rfl, rfl, rfl, rfl, memRead_resetEvent_id s, hmem, rfl,
    fun j hj => ⟨_, memRead_resetEvent_cw s hj⟩, hhard⟩

/-- Settles O13: `NOP` is ready whenever the block is not locked, and its effect changes nothing (rule R200). -/
theorem nopOnlyEnds : Obligations.NopOnlyEnds := by
  refine fun s => ⟨fun hf => ?_, fun hf => runCommand_locked hf true true true .done⟩
  have hready : Ready .nop s := ⟨hf, rfl, rfl, rfl⟩
  exact exec_done (by decide) hready rfl

end Sys2Proof.Machine
end

section
/-! PROOFS. How a command ends without its effect: at the first of the five tests that fails (rule R212), which `RESET`
passes in every state, or by a `Fatal` (rule R216). -/

namespace Sys2Proof

/-! ### The word `RESET` (rule R102) -/

theorem noOperand_eq_ok_iff (w : Word) (i j : Instr) :
    noOperand w i = .ok j ↔ (aField w = 0 ∧ bField w = 0) ∧ i = j := by
  unfold noOperand
  split_ifs with h <;> simp [h]

theorem operandA_eq_ok_iff (w : Word) (i : Nat → Instr) (j : Instr) :
    operandA w i = .ok j ↔ bField w = 0 ∧ i (aField w) = j := by
  unfold operandA
  split_ifs with h <;> simp [h]

theorem operandsAB_eq_ok_iff (w : Word) (i : Nat → Nat → Instr) (j : Instr) :
    operandsAB w i = .ok j ↔ i (aField w) (bField w) = j := by
  simp [operandsAB]

theorem opField_of_decodeOp_eq_ok_reset {w : Word} (h : decodeOp w = .ok .reset) : opField w = 0x01 := by
  unfold decodeOp at h
  split at h
  case h_2 hop => exact hop
  all_goals simp [noOperand_eq_ok_iff, operandA_eq_ok_iff, operandsAB_eq_ok_iff] at h

/-- `RESET` is the one command of opcode 0x01. -/
theorem eq_reset_iff_of_decode_eq_ok {w : Word} {i : Instr} (h : decode w = .ok i) : i = .reset ↔ w.toNat % 256 = 1 := by
  have hop : decodeOp w = .ok i := by
    unfold decode at h
    split_ifs at h
    exact h
  rw [← opField_eq]
  constructor
  · rintro rfl
    exact opField_of_decodeOp_eq_ok_reset hop
  · intro h1
    have hreset : decodeOp w = noOperand w .reset := by simp only [decodeOp, h1]
    rw [hreset, noOperand_eq_ok_iff] at hop
    exact hop.2.symm

end Sys2Proof

namespace Sys2Proof.Machine

open Sys2Proof.Claims

/-! ### The tests in order (rule R212) -/

theorem engineStep_of_decode_eq_ok {s : State} {i : Instr} (hb : s.status.busy = true) (hi : decode s.pending = .ok i) :
    engineStep s = exec i s := by
  simp only [engineStep, hb, hi, if_true]

theorem exec_locked {i : Instr} (hi : i ≠ .reset) {s : State} (hf : s.status.fatal = true) :
    exec i s = .next (rejected s .locked) := by
  rw [exec_eq hi, runCommand_locked hf]
  rfl

theorem illegalCommand_of_locked {s : State} (hf : s.status.fatal = true) (hop : s.pending.toNat % 256 ≠ 1) :
    s.illegalCommand = rejected s .locked :=
  if_pos ⟨hf, by rwa [opField_eq]⟩

theorem illegalCommand_of_not_locked {s : State} (h : ¬ (s.status.fatal = true ∧ s.pending.toNat % 256 ≠ 1)) :
    s.illegalCommand = rejected s .illegalCommand :=
  if_neg (by rwa [opField_eq])

/-- While locked, the engine ends every word of another opcode than `RESET`'s with `Locked`, legal or not (test 1). -/
theorem engineStep_locked {s : State} (hb : s.status.busy = true) (hf : s.status.fatal = true)
    (hop : s.pending.toNat % 256 ≠ 1) : engineStep s = .next (rejected s .locked) := by
  cases hi : decode s.pending with
  | error e =>
    rw [engineStep_of_isIllegal hb ((isIllegal_iff_decode_eq_error s.pending).2 ⟨e, hi⟩), illegalCommand_of_locked hf hop]
  | ok i => rw [engineStep_of_decode_eq_ok hb hi, exec_locked ((eq_reset_iff_of_decode_eq_ok hi).not.2 hop) hf]

/-- Settles O6: past test 1 a command other than `RESET` runs unlocked, and `RESET` passes tests 3, 4 and 5. -/
theorem engineTestsInOrder : Obligations.EngineTestsInOrder := by
  refine fun s hb => ⟨engineStep_locked hb, fun hopen => ⟨fun hw => ?_, fun i hi => ?_⟩⟩
  · rw [engineStep_of_isIllegal hb hw, illegalCommand_of_not_locked hopen]
  rw [engineStep_of_decode_eq_ok hb hi]
  by_cases hreset : i = .reset
  · subst hreset
    exact ⟨nofun, fun _ => nofun, fun _ _ => nofun⟩
  have hf : s.status.fatal = false :=
    Bool.eq_false_iff.2 fun hf => hopen ⟨hf, (eq_reset_iff_of_decode_eq_ok hi).not.1 hreset⟩
  exact ⟨fun hpre => exec_badState hreset hf (Bool.eq_false_iff.1 hpre),
    fun hpre hparam => exec_invalidParameter hreset hf hpre (Bool.eq_false_iff.1 hparam),
    fun hpre hparam hoperand => exec_badOperand hreset hf hpre hparam (Bool.eq_false_iff.1 hoperand)⟩

/-! ### The `Fatal` (rule R216) -/

/-- Settles O10: no rejection, no completed effect and no reset sets `FATAL`, so the command ended with `raise Fatal`. -/
theorem fatalEndsTheCommand : Obligations.FatalEndsTheCommand := by
  intro i s t hf h hfatal
  have hreset : i ≠ .reset := by
    rintro rfl
    cases h
    cases hfatal
  rcases exec_next_cases hreset h with ⟨code, rfl, -⟩ | ⟨-, u, hu, rfl⟩ | ⟨-, code, hcode, rfl⟩
  · exact absurd (hfatal.symm.trans hf) (by decide)
  · exact absurd (hfatal.symm.trans ((effectOf_keeps hu).fatal.trans hf)) (by decide)
  · exact ⟨raiseFatal_fatalEnding s code, effectOf_fatal hcode⟩

end Sys2Proof.Machine
end

section
/-! PROOFS. The encoder is the decoder's inverse (rules R100 to R102, R110): a word is its four fields side by side. -/

namespace Sys2Proof

/-! ### A word from its fields (rule R110) -/

/-- The fields of a command word stand side by side: with operands that fit, no bit of one lies over another. -/
theorem toNat_commandWord {op a b : Nat} (hop : op < 256) (ha : a < 16) (hb : b < 16) :
    (commandWord op a b).toNat = op + 256 * a + 4096 * b := by
  have hlow : op ||| a <<< 8 = 256 * a + op := by
    rw [Nat.or_comm, Nat.shiftLeft_eq, Nat.mul_comm, ← Nat.two_pow_add_eq_or_of_lt hop]
  have hall : (256 * a + op) ||| b <<< 12 = 4096 * b + (256 * a + op) := by
    rw [Nat.or_comm, Nat.shiftLeft_eq, Nat.mul_comm, ← Nat.two_pow_add_eq_or_of_lt (by omega)]
  rw [commandWord, hlow, hall, BitVec.toNat_ofNat]
  omega

section
variable {op a b : Nat} (hop : op < 256) (ha : a < 16) (hb : b < 16)
include hop ha hb

theorem opField_commandWord : opField (commandWord op a b) = op := by
  rw [opField_eq, toNat_commandWord hop ha hb]; omega

theorem aField_commandWord : aField (commandWord op a b) = a := by
  rw [aField_eq, toNat_commandWord hop ha hb]; omega

theorem bField_commandWord : bField (commandWord op a b) = b := by
  rw [bField_eq, toNat_commandWord hop ha hb]; omega

theorem zField_commandWord : zField (commandWord op a b) = 0 := by
  rw [zField_eq, toNat_commandWord hop ha hb]; omega

end

/-- A word whose field `z` is 0 is the command word of its other fields. -/
theorem commandWord_fields {w : Word} (hz : zField w = 0) : commandWord (opField w) (aField w) (bField w) = w := by
  rw [zField_eq] at hz
  rw [← BitVec.toNat_inj, opField_eq, aField_eq, bField_eq,
    toNat_commandWord (Nat.mod_lt _ (by decide)) (Nat.mod_lt _ (by decide)) (Nat.mod_lt _ (by decide))]
  omega

theorem aField_lt (w : Word) : aField w < 16 := by rw [aField_eq]; omega

theorem bField_lt (w : Word) : bField w < 16 := by rw [bField_eq]; omega

/-! ### Decoding a command word (rules R100, R102) -/

theorem decode_eq_ok_iff (w : Word) (i : Instr) : decode w = .ok i ↔ zField w = 0 ∧ decodeOp w = .ok i := by
  unfold decode
  split_ifs with h <;> simp [h]

/-- A command with no operand decodes from its word. -/
theorem decode_commandWord_noOperand {op : Nat} {i : Instr} (hop : op < 256)
    (hd : ∀ w, opField w = op → decodeOp w = noOperand w i) : decode (commandWord op 0 0) = .ok i := by
  have h0 : 0 < 16 := by decide
  rw [decode_eq_ok_iff, hd _ (opField_commandWord hop h0 h0), noOperand_eq_ok_iff]
  exact ⟨zField_commandWord hop h0 h0, ⟨aField_commandWord hop h0 h0, bField_commandWord hop h0 h0⟩, rfl⟩

/-- A command with the operand `a` decodes from its word. -/
theorem decode_commandWord_operandA {op : Nat} {i : Nat → Instr} {a : Nat} (hop : op < 256) (ha : operandFits a = true)
    (hd : ∀ w, opField w = op → decodeOp w = operandA w i) : decode (commandWord op a 0) = .ok (i a) := by
  have h0 : 0 < 16 := by decide
  have ha : a < 16 := of_decide_eq_true ha
  rw [decode_eq_ok_iff, hd _ (opField_commandWord hop ha h0), operandA_eq_ok_iff, aField_commandWord hop ha h0]
  exact ⟨zField_commandWord hop ha h0, bField_commandWord hop ha h0, rfl⟩

/-- A command with the operands `a` and `b` decodes from its word. -/
theorem decode_commandWord_operandsAB {op : Nat} {i : Nat → Nat → Instr} {a b : Nat} (hop : op < 256)
    (hfits : (operandFits a && operandFits b) = true) (hd : ∀ w, opField w = op → decodeOp w = operandsAB w i) :
    decode (commandWord op a b) = .ok (i a b) := by
  obtain ⟨ha, hb⟩ : a < 16 ∧ b < 16 := by simpa [operandFits] using hfits
  rw [decode_eq_ok_iff, hd _ (opField_commandWord hop ha hb), operandsAB_eq_ok_iff, aField_commandWord hop ha hb,
    bField_commandWord hop ha hb]
  exact ⟨zField_commandWord hop ha hb, rfl⟩

/-- Settles O1: the word of a command has the command's opcode and operands as its fields, and the opcode says which fields
the decoder reads. -/
theorem encodedCommandDecodesBack : Obligations.EncodedCommandDecodesBack := by
  intro i hi
  cases i with
  | gpInit | gpAll | fiEnc | fiPaint | psRun | psBox | psFind | psBal | psScore | enCand =>
    exact decode_commandWord_operandA (by decide) hi fun w h => by simp only [decodeOp, h]
  | fiPlan | mkApply => exact decode_commandWord_operandsAB (by decide) hi fun w h => by simp only [decodeOp, h]
  | _ => exact decode_commandWord_noOperand (by decide) fun w h => by simp only [decodeOp, h]

/-- Settles O2: a field the command does not use is 0, so the word is the command word of its opcode and operands. -/
theorem decodedWordEncodesBack : Obligations.DecodedWordEncodesBack := by
  intro w i h
  obtain ⟨hz, h⟩ := (decode_eq_ok_iff w i).1 h
  have hw := commandWord_fields hz
  have ha : operandFits (aField w) = true := decide_eq_true (aField_lt w)
  have hb : operandFits (bField w) = true := decide_eq_true (bField_lt w)
  unfold decodeOp at h
  split at h
  case h_30 => cases h
  all_goals
    rename_i hop
    simp only [noOperand_eq_ok_iff, operandA_eq_ok_iff, operandsAB_eq_ok_iff] at h
    rw [hop] at hw
  case h_3 | h_10 | h_15 | h_16 | h_19 | h_20 | h_21 | h_22 | h_23 | h_25 =>
    obtain ⟨hb0, rfl⟩ := h
    rw [hb0] at hw
    exact ⟨ha, hw⟩
  case h_17 | h_18 =>
    subst h
    exact ⟨by simp [Instr.wellFormed, ha, hb], hw⟩
  all_goals
    obtain ⟨⟨ha0, hb0⟩, rfl⟩ := h
    rw [ha0, hb0] at hw
    exact ⟨rfl, hw⟩

/-- Settles O3, by running the decoder on each word. -/
theorem printedWordsDecode : Obligations.PrintedWordsDecode := by
  unfold Obligations.PrintedWordsDecode
  decide

end Sys2Proof

namespace Sys2Proof.Machine

/-! ### The engine's turn (rules R103, R217) -/

/-- It is the engine's turn, and `es` are the events after it (log entry 4). -/
abbrev EnginesTurn (s : State) (es : List Event) : Prop :=
  s.port.events = .engine :: es ∨ (s.port.events = [] ∧ es = [])

theorem step_of_enginesTurn {s : State} {es : List Event} (h : EnginesTurn s es) :
    step s = engineStep (s.withEvents es) := by
  rcases h with he | ⟨he, rfl⟩
  · simp only [step, he]
  · have hs : s.withEvents [] = s := by unfold State.withEvents; rw [← he]
    rw [hs]
    simp only [step, he]

theorem engineStep_of_idle {s : State} (hb : s.status.busy = false) : engineStep s = .next s := by
  simp [engineStep, hb]

/-- Settles O5: the word in `PENDING` decodes to the command it encodes (`encodedCommandDecodesBack`). -/
theorem stepRunsPendingCommand : Obligations.StepRunsPendingCommand := by
  intro s es h
  rw [step_of_enginesTurn h]
  refine ⟨fun i hi hb hp => engineStep_of_decode_eq_ok hb ?_, fun hb => engineStep_of_idle hb⟩
  exact (congrArg decode hp).trans (encodedCommandDecodesBack i hi)

/-- A turn of the engine that unlocks ran the word `RESET`. -/
theorem pending_eq_reset_of_unlocks {s t : State} (h : engineStep s = .next t) (hf : s.status.fatal = true)
    (hf' : t.status.fatal = false) : s.status.busy = true ∧ s.pending = 1 := by
  rcases engineStep_cases h with ⟨i, hb, hi, hx⟩ | ⟨-, -, rfl⟩ | ⟨-, rfl⟩
  · refine ⟨hb, ?_⟩
    by_cases hreset : i = .reset
    · rw [← (decodedWordEncodesBack _ _ hi).2, hreset]
      rfl
    · rw [exec_locked hreset hf] at hx
      cases hx
      exact absurd (hf.symm.trans hf') (by decide)
  · have hkept : s.illegalCommand.status.fatal = s.status.fatal := by unfold State.illegalCommand; split_ifs <;> rfl
    exact absurd (hf.symm.trans (hkept.symm.trans hf')) (by decide)
  · exact absurd (hf.symm.trans hf') (by decide)

/-- Settles O7: test 1 comes first (rule R212), a host access leaves `FATAL` alone, and of the engine's words only `RESET`'s
unlocks. -/
theorem onlyResetUnlocks : Obligations.OnlyResetUnlocks := by
  refine ⟨fun i s hi hf => exec_locked hi hf, fun s t h hf hf' => ?_⟩
  have engine : ∀ es, EnginesTurn s es → s.status.busy = true ∧ s.pending = 1 := fun es hes => by
    rw [step_of_enginesTurn hes] at h
    exact pending_eq_reset_of_unlocks (s := s.withEvents es) h hf hf'
  rcases he : s.port.events with _ | ⟨e, es⟩
  · obtain ⟨hb, hp⟩ := engine [] (.inr ⟨he, rfl⟩)
    exact .inr ⟨hb, hp, .inl rfl⟩
  cases e with
  | engine =>
    obtain ⟨hb, hp⟩ := engine es (.inl he)
    exact .inr ⟨hb, hp, .inr ⟨es, rfl⟩⟩
  | hardReset => exact .inl ⟨es, rfl⟩
  | read addr width =>
    rw [step_read he] at h
    cases h
    exact absurd (hf.symm.trans hf') (by decide)
  | write addr width value =>
    rw [step_write he] at h
    cases h
    rcases hostWrite_cases (s.withEvents es) addr width value with ⟨u, hu, hw⟩ | hw
    · have hkept : u.status.fatal = s.status.fatal := by
        obtain ⟨-, rfl | rfl | rfl | ⟨j, rfl⟩⟩ := memWrite_cases hu <;> rfl
      rw [hw] at hf'
      exact absurd (hf.symm.trans (hkept.symm.trans hf')) (by decide)
    · rw [hw] at hf'
      exact absurd (hf.symm.trans hf') (by decide)

end Sys2Proof.Machine
end

section
/-! PROOFS. What a step can do to the engine's side, said once: nothing, a reset event, a `Fatal`, or the effect of a ready
command; with the commands' outcomes (rules R94, R103, R218). -/

namespace Sys2Proof.Machine

/-! ### How a command ends -/

/-- A command that ended with `ERR = 0` was ready, and its effect completed. -/
theorem exec_ok {i : Instr} (hi : i ≠ .reset) {s t : State} (h : exec i s = .next t) (hok : t.status.err = .ok) :
    Ready i s ∧ ∃ u, effectOf i s = .done u ∧ t = u.finish := by
  rcases exec_next_cases hi h with ⟨code, rfl, hne, -⟩ | hdone | ⟨-, code, -, rfl⟩
  · exact absurd hok hne
  · exact hdone
  · cases hok

theorem none_not_mem_fatalCodesOf (i : Instr) : FatalCode.none ∉ fatalCodesOf i := by
  cases i <;> simp [fatalCodesOf]

/-! ### A step as seen from the engine's side -/

/-- `t` is `s` but for what the host and the end of a command write: `BUSY`, `ERR`, `CFG`, `CWLEN`, `ERRCMD`, `PENDING`, `CW`
and the boundary; `CW` keeps its canonical form. -/
structure SameEngine (s t : State) : Prop where
  frame : t = { s with
    status := { s.status with busy := t.status.busy, err := t.status.err }
    cfg := t.cfg, cwlen := t.cwlen, errcmd := t.errcmd, pending := t.pending, cw := t.cw, port := t.port }
  cw_wf : Memory.wf s.cw → Memory.wf t.cw

theorem SameEngine.trans {s t u : State} (h : SameEngine s t) (h' : SameEngine t u) : SameEngine s u where
  frame := by rw [h'.frame, h.frame]
  cw_wf := h'.cw_wf ∘ h.cw_wf

theorem State.reject_sameEngine (s : State) (code : ErrCode) : SameEngine s (s.reject code) := ⟨rfl, id⟩

theorem State.finish_sameEngine (s : State) : SameEngine s s.finish := ⟨rfl, id⟩

theorem State.withEvents_sameEngine (s : State) (es : List Event) : SameEngine s (s.withEvents es) := ⟨rfl, id⟩

theorem State.answered_sameEngine (s : State) (a : BusAnswer) : SameEngine s (s.answered a) := ⟨rfl, id⟩

theorem State.illegalCommand_sameEngine (s : State) : SameEngine s s.illegalCommand := by
  unfold State.illegalCommand
  split
  · exact s.reject_sameEngine .locked
  · exact s.reject_sameEngine .illegalCommand

theorem memWrite_sameEngine {s t : State} {addr : BitVec 20} {width : Nat} {value : Word}
    (h : memWrite s addr width value = some t) : SameEngine s t := by
  obtain ⟨-, rfl | rfl | rfl | ⟨j, rfl⟩⟩ := memWrite_cases h
  · exact ⟨rfl, id⟩
  · exact ⟨rfl, id⟩
  · exact ⟨rfl, id⟩
  · exact ⟨rfl, Memory.set_wf _ _ _⟩

/-- What one step can do to the engine's side. -/
inductive StepEnding (s : State) : State → Prop
  | same {t : State} (h : SameEngine s t) : StepEnding s t
  | reset {u : State} (h : SameEngine s u) : StepEnding s u.resetEvent
  | fatal {u : State} {code : FatalCode} (h : SameEngine s u) (hcode : code ≠ .none) : StepEnding s (u.raiseFatal code)
  | effect {u v : State} {i : Instr} (h : SameEngine s u) (hready : Ready i u) (hv : effectOf i u = .done v) :
    StepEnding s v.finish

theorem StepEnding.of_exec {i : Instr} {s u t : State} (hu : SameEngine s u) (h : exec i u = .next t) : StepEnding s t := by
  by_cases hi : i = .reset
  · subst hi
    cases h
    exact .reset hu
  rcases exec_next_cases hi h with ⟨code, rfl, -⟩ | ⟨hready, v, hv, rfl⟩ | ⟨-, code, hcode, rfl⟩
  · exact .same (hu.trans (u.reject_sameEngine code))
  · exact .effect hu hready hv
  · refine .fatal hu ?_
    rintro rfl
    exact none_not_mem_fatalCodesOf i (effectOf_fatal hcode)

theorem step_ending {s t : State} (h : step s = .next t) : StepEnding s t := by
  obtain ⟨es, -, hcases⟩ := step_cases h
  have hs := s.withEvents_sameEngine es
  rcases hcases with ⟨i, -, -, hx⟩ | ⟨-, rfl⟩ | rfl | ⟨a, rfl⟩ | ⟨addr, width, value, u, hu, rfl⟩ | ⟨-, rfl⟩
  · exact .of_exec hs hx
  · exact .same (hs.trans (State.illegalCommand_sameEngine _))
  · exact .same hs
  · exact .same (hs.trans (State.answered_sameEngine _ a))
  · exact .same (hs.trans ((memWrite_sameEngine hu).trans (u.answered_sameEngine .stored)))
  · exact .reset hs

/-! ### What no command and no step writes (rule R94) -/

theorem State.cwByte_congr {s t : State} (hcw : t.cw = s.cw) (hstamp : t.cwStamp = s.cwStamp) (j : Nat) :
    t.cwByte j = s.cwByte j := by
  unfold State.cwByte
  rw [hcw, hstamp]

theorem StepEnding.config {s t : State} (h : StepEnding s t) : t.config = s.config := by
  have hsame : ∀ {u : State}, SameEngine s u → u.config = s.config := fun hu => by rw [hu.frame]
  cases h with
  | same h => exact hsame h
  | reset h => exact (hsame h :)
  | fatal h => exact (hsame h :)
  | effect h hready hv => exact (effectOf_keeps hv).config.trans (hsame h)

/-- Settles O60: a rejection, an effect (`effectOf_keeps`) and a `Fatal` leave the host's side alone, and no ending of a step
changes the parameters. -/
theorem commandsKeepHostInputs : Obligations.CommandsKeepHostInputs := by
  refine ⟨fun i s t hi h => ?_, fun s t h => (step_ending h).config⟩
  rcases exec_next_cases hi h with ⟨code, rfl, -⟩ | ⟨-, u, hu, rfl⟩ | ⟨-, code, -, rfl⟩
  · exact ⟨rfl, rfl, fun _ => rfl, rfl, rfl⟩
  · have hk := effectOf_keeps hu
    exact ⟨hk.cfg, hk.cwlen, State.cwByte_congr hk.cw hk.cwStamp, hk.pending, hk.port⟩
  · exact ⟨rfl, rfl, fun _ => rfl, rfl, rfl⟩

/-! ### The outcomes (rules R210, R218) -/

/-- Settles O9: each rejection names the test that failed (rule R212), and only an effect raises a `Fatal`. -/
theorem outcomesOfEachCommand : Obligations.OutcomesOfEachCommand := by
  intro i s t h
  by_cases hi : i = .reset
  · subst hi
    cases h
    exact ⟨nofun, nofun, nofun, nofun, nofun, nofun, fun hne => absurd rfl hne, fun _ hne => absurd rfl hne⟩
  rw [exec_eq hi] at h
  rcases runCommand_cases s (precondition i s) (parametersInRange i s) (operandsInRange i s) (effectOf i) with
    ⟨htest, hrun⟩ | ⟨-, htest, hrun⟩ | ⟨-, -, htest, hrun⟩ | ⟨-, -, -, htest, hrun⟩ | ⟨-, -, -, -, hrun⟩ <;> rw [hrun] at h
  · cases h
    exact ⟨nofun, nofun, nofun, nofun, fun _ => htest, nofun, fun _ => rfl, nofun⟩
  · cases h
    exact ⟨nofun, fun _ => htest, nofun, nofun, nofun, nofun, fun _ => rfl, nofun⟩
  · cases h
    exact ⟨nofun, nofun, fun _ => htest, nofun, nofun, nofun, fun _ => rfl, nofun⟩
  · cases h
    exact ⟨nofun, nofun, nofun, fun _ => htest, nofun, nofun, fun _ => rfl, nofun⟩
  · rcases conclude_next h with ⟨u, hu, rfl⟩ | ⟨code, hcode, rfl⟩
    · exact ⟨nofun, nofun, nofun, nofun, nofun, nofun, fun hne => absurd rfl hne, fun _ _ => (effectOf_keeps hu).errcmd⟩
    · exact ⟨nofun, nofun, nofun, nofun, nofun, fun _ => effectOf_fatal hcode, fun _ => rfl, nofun⟩

/-! ### Every command ends (rules R103, R126) -/

theorem blParam_ne_stuck (s : State) (r : Fault) : blParam s ≠ .stuck r := by
  simp only [blParam]
  split <;> exact nofun

theorem Effect.andThen_ne_stuck {e : Effect} {f : State → Effect} {r : Fault} (he : e ≠ .stuck r)
    (hf : ∀ u, e = .done u → f u ≠ .stuck r) : e.andThen f ≠ .stuck r := by
  cases e with
  | done u => exact hf u rfl
  | fatal code => exact nofun
  | stuck q => exact he

theorem blAll_ne_stuck (s : State) (r : Fault) : blAll s ≠ .stuck r :=
  Effect.andThen_ne_stuck (blParam_ne_stuck s r) fun u _ => blSweep_ne_stuck (blIlv u) r

theorem enPlace_ne_stuck (s : State) (r : Fault) : enPlace s ≠ .stuck r := by
  unfold enPlace
  split <;> exact nofun

theorem gpAll_ne_stuck {n : Nat} {s : State} (h : alignSound (capRecord s.config s.cfg.version.toNat)) (r : Fault) :
    gpAll n s ≠ .stuck r := by
  obtain ⟨t, ht⟩ := gpAll_isDone n h
  rw [ht]
  exact nofun

/-- A ready command whose record ends the alignment loop does not stop the machine: the loop of `GP.ALIGN` is the only one
that could run on. -/
theorem effectOf_ne_stuck {i : Instr} {s : State} (hready : Ready i s) (hcap : alignSoundConfig s.config)
    (hplan : PlanCoherent s) (r : Fault) : effectOf i s ≠ .stuck r := by
  obtain ⟨-, hpre, hparam, -⟩ := hready
  cases i with
  | gpAlign =>
    have hshape := hplan ((atStep_eq_true_iff 2 s).1 hpre).1
    obtain ⟨t, ht⟩ := gpAlign_isDone (s := s) (hcap _ hshape.version_lo hshape.version_hi)
    show gpAlign s ≠ _
    rw [ht]
    exact nofun
  | gpAll n =>
    obtain ⟨hlo, hhi, -⟩ := (parametersInRange_gpInit_iff n s).1 hparam
    exact gpAll_ne_stuck (hcap _ hlo hhi) r
  | plPlan =>
    obtain ⟨⟨⟨hlo, hhi⟩, -⟩, -⟩ : ((_ ∧ _) ∧ _) ∧ _ := by simpa [parametersInRange] using hparam
    exact Effect.andThen_ne_stuck (Effect.andThen_ne_stuck (gpAll_ne_stuck (hcap _ hlo hhi) r)
      fun g _ => blAll_ne_stuck g r) fun u _ => nofun
  | blParam => exact blParam_ne_stuck s r
  | blSweep => exact blSweep_ne_stuck s r
  | blAll => exact blAll_ne_stuck s r
  | enPlace => exact enPlace_ne_stuck s r
  | enEncode => exact Effect.andThen_ne_stuck (enPlace_ne_stuck s r) fun u _ => nofun
  | _ => exact nofun

/-- Settles O8: every way a command ends writes `BUSY = 0`, and no ready command is stuck. -/
theorem everyCommandEnds : Obligations.EveryCommandEnds := by
  intro i s hcap hplan
  by_cases hi : i = .reset
  · subst hi
    exact ⟨s.resetEvent, rfl, rfl⟩
  rw [exec_eq hi]
  rcases runCommand_cases s (precondition i s) (parametersInRange i s) (operandsInRange i s) (effectOf i) with
    ⟨-, hrun⟩ | ⟨-, -, hrun⟩ | ⟨-, -, -, hrun⟩ | ⟨-, -, -, -, hrun⟩ | ⟨hf, hpre, hparam, hoperand, hrun⟩ <;> rw [hrun]
  · exact ⟨_, rfl, rfl⟩
  · exact ⟨_, rfl, rfl⟩
  · exact ⟨_, rfl, rfl⟩
  · exact ⟨_, rfl, rfl⟩
  · cases he : effectOf i s with
    | done u => exact ⟨u.finish, rfl, rfl⟩
    | fatal code => exact ⟨s.raiseFatal code, rfl, rfl⟩
    | stuck r => exact absurd he (effectOf_ne_stuck ⟨hf, hpre, hparam, hoperand⟩ hcap hplan r)

end Sys2Proof.Machine
end

section
/-! PROOFS. The canonical form of the memories (log entry 2), kept by every effect and so by every step. -/

namespace Sys2Proof.Machine

/-! ### The plan commands -/

theorem gridStep_canonical (ps : List Paint) (k : Fin 7) {s : State} (h : Canonical s) : Canonical (gridStep ps k s) := by
  obtain ⟨hgrid, hseq, htpl, hrest⟩ := h
  obtain ⟨hgrid', htpl'⟩ := s.paintAll_wf ps hgrid htpl
  refine ⟨hgrid', ?_, htpl', ?_⟩ <;> rw [gridStep_sameButGridStep ps k s]
  · exact hseq
  · exact hrest

theorem gpInit_canonical (n : Nat) {s : State} (h : Canonical s) : Canonical (gpInit n s) := by
  obtain ⟨hgrid, hseq, htpl, hrest⟩ := h
  exact ⟨clearGrid_wf _ _ hgrid, hseq, clearTemplates_wf _ _ _ htpl, hrest⟩

theorem gpAlign_canonical {s t : State} (h : gpAlign s = .done t) (hs : Canonical s) : Canonical t := by
  obtain ⟨coords, -, rfl⟩ := gpAlign_done h
  exact gridStep_canonical _ _ hs

theorem gpAll_canonical {n : Nat} {s t : State} (h : gpAll n s = .done t) (hs : Canonical s) : Canonical t := by
  obtain ⟨u, hu, rfl⟩ := gpAll_done h
  have hbefore : Canonical (gpFinder (gpTiming (gpInit n s))) :=
    gridStep_canonical _ _ (gridStep_canonical _ _ (gpInit_canonical n hs))
  exact gridStep_canonical _ _ (gridStep_canonical _ _ (gridStep_canonical _ _ (gpAlign_canonical hu hbefore)))

theorem blParam_canonical {s t : State} (h : blParam s = .done t) (hs : Canonical s) : Canonical t := by
  rw [(blParam_done h).2]
  exact hs

theorem blIlv_canonical {s : State} (h : Canonical s) : Canonical (blIlv s) := by
  obtain ⟨hgrid, hseq, hrest⟩ := h
  exact ⟨hgrid, Memory.writeList_wf _ _ hseq, hrest⟩

theorem blSweep_canonical {s t : State} (h : blSweep s = .done t) (hs : Canonical s) : Canonical t := by
  obtain ⟨hgrid, hrest⟩ := hs
  obtain ⟨grid, p, hloop, -, rfl⟩ := blSweep_done h
  exact ⟨sweepLoop_wf s _ _ _ hgrid hloop, hrest⟩

theorem blAll_canonical {s t : State} (h : blAll s = .done t) (hs : Canonical s) : Canonical t := by
  obtain ⟨u, hu, ht⟩ := blAll_done h
  exact blSweep_canonical ht (blIlv_canonical (blParam_canonical hu hs))

theorem SameButTemplates.canonical {s t : State} (h : SameButTemplates s t) (ht : TemplatesWf t.tpl) (hs : Canonical s) :
    Canonical t := by
  obtain ⟨hgrid, hseq, -, hrest⟩ := hs
  refine ⟨?_, ?_, ht, ?_⟩ <;> rw [h]
  · exact hgrid
  · exact hseq
  · exact hrest

theorem fiPaint_canonical (k : Nat) {s : State} (h : Canonical s) : Canonical (fiPaint k s) :=
  (fiPaint_sameButTemplates k s).canonical (fiPaint_wf k s h.2.2.1) h

theorem mkApply_canonical (m k : Nat) {s : State} (h : Canonical s) : Canonical (mkApply m k s) :=
  (mkApply_sameButTemplates m k s).canonical (mkApply_wf m k s h.2.2.1) h

theorem planTemplate_canonical (m k : Nat) {s : State} (h : Canonical s) : Canonical (planTemplate m k s) :=
  mkApply_canonical m k (fiPaint_canonical k (s := fiEnc m s) h)

theorem planTemplates_canonical {s : State} (h : Canonical s) : Canonical (planTemplates s) := by
  unfold planTemplates
  split
  · exact planTemplate_canonical _ _ h
  · exact List.foldlRecOn (motive := Canonical) _ _ h fun t ht k _ => planTemplate_canonical k k ht

theorem plPlan_canonical {s t : State} (h : plPlan s = .done t) (hs : Canonical s) : Canonical t := by
  obtain ⟨g, u, hg, hu, rfl⟩ := plPlan_done h
  exact planTemplates_canonical (blAll_canonical hu (gpAll_canonical hg hs))

/-! ### The encode commands -/

theorem enPlace_canonical {s t : State} (h : enPlace s = .done t) (hs : Canonical s) : Canonical t := by
  obtain ⟨hgrid, hseq, htpl, hwork, hrest⟩ := hs
  obtain ⟨hbytes, hframe⟩ := enPlace_done h
  obtain rfl : s.afterPlace = t := by simpa [enPlace_of_bytes hbytes] using h
  have hwork' : Memory.wf s.afterPlace.work := placeBits_wf s.withGround (Memory.writeList_wf _ _ hwork)
  refine ⟨?_, ?_, ?_, hwork', ?_⟩ <;> rw [hframe]
  · exact hgrid
  · exact hseq
  · exact htpl
  · exact hrest

theorem search_canonical {s : State} (h : Canonical s) : Canonical (search s) := by
  obtain ⟨hgrid, hseq, htpl, hwork, hcand, hout, hcw⟩ := h
  have hframe := searchTurns_sameButSearch (List.range 8) (s, none)
  have hturns : Memory.wf ((List.range 8).foldl searchTurn (s, none)).1.cand
      ∧ Memory.wf ((List.range 8).foldl searchTurn (s, none)).1.out :=
    List.foldlRecOn (motive := fun acc => Memory.wf acc.1.cand ∧ Memory.wf acc.1.out) _ _ ⟨hcand, hout⟩
      fun acc hacc k _ => searchTurn_wf acc k hacc.1 hacc.2
  unfold search
  dsimp only [State.latchCode]
  generalize (List.range 8).foldl searchTurn (s, none) = acc at hframe hturns ⊢
  refine ⟨?_, ?_, ?_, ?_, hturns.1, hturns.2, ?_⟩ <;> dsimp only <;> rw [hframe]
  · exact hgrid
  · exact hseq
  · exact htpl
  · exact hwork
  · exact hcw

theorem enSelect_canonical {s : State} (h : Canonical s) : Canonical (enSelect s) := by
  unfold enSelect
  split
  · obtain ⟨hgrid, hseq, htpl, hwork, hcand, hout, hcw⟩ := h
    exact ⟨hgrid, hseq, htpl, hwork, hcand, Memory.writeList_wf _ _ hout, hcw⟩
  · exact search_canonical h

/-! ### Every step -/

/-- Every effect keeps the canonical form. -/
theorem effectOf_canonical {i : Instr} {s t : State} (h : effectOf i s = .done t) (hs : Canonical s) : Canonical t := by
  cases i with
  | gpAlign => exact gpAlign_canonical h hs
  | gpAll n => exact gpAll_canonical h hs
  | blParam => exact blParam_canonical h hs
  | blSweep => exact blSweep_canonical h hs
  | blAll => exact blAll_canonical h hs
  | plPlan => exact plPlan_canonical h hs
  | enPlace => exact enPlace_canonical h hs
  | enEncode =>
    obtain ⟨u, hu, ht⟩ := Effect.andThen_eq_done h
    cases ht
    exact enSelect_canonical (enPlace_canonical hu hs)
  | psRun | psBox | psFind | psBal | psScore =>
    rcases scoreEffect_done h with ⟨b, -, rfl⟩ | ⟨-, rfl⟩ <;> exact hs
  | gpInit n => cases h; exact gpInit_canonical n hs
  | gpTiming | gpFinder | gpVerinfo | gpFmtrsv | gpDark =>
    simp only [effectOf, Effect.done.injEq] at h
    subst h
    exact gridStep_canonical _ _ hs
  | blIlv => cases h; exact blIlv_canonical hs
  | fiPaint k => cases h; exact fiPaint_canonical k hs
  | fiPlan m k => cases h; exact fiPaint_canonical k (s := fiEnc m s) hs
  | mkApply m k => cases h; exact mkApply_canonical m k hs
  | enSelect => cases h; exact enSelect_canonical hs
  | nop | reset | fiEnc => cases h; exact hs
  | enCand k =>
    cases h
    obtain ⟨hgrid, hseq, htpl, hwork, hcand, hrest⟩ := hs
    exact ⟨hgrid, hseq, htpl, hwork, Memory.writeList_wf _ _ hcand, hrest⟩
  | enKeep =>
    cases h
    obtain ⟨hgrid, hseq, htpl, hwork, hcand, hout, hcw⟩ := hs
    exact ⟨hgrid, hseq, htpl, hwork, hcand, Memory.writeList_wf _ _ hout, hcw⟩

theorem SameEngine.canonical {s t : State} (h : SameEngine s t) (hs : Canonical s) : Canonical t := by
  obtain ⟨hgrid, hseq, htpl, hwork, hcand, hout, hcw⟩ := hs
  refine ⟨?_, ?_, ?_, ?_, ?_, ?_, h.cw_wf hcw⟩ <;> rw [h.frame]
  · exact hgrid
  · exact hseq
  · exact htpl
  · exact hwork
  · exact hcand
  · exact hout

theorem templatesWf_empty : TemplatesWf Templates.empty := by decide

theorem State.resetEvent_canonical (s : State) : Canonical s.resetEvent :=
  ⟨Memory.wf_nil, Memory.wf_nil, templatesWf_empty, Memory.wf_nil, Memory.wf_nil, Memory.wf_nil, Memory.wf_nil⟩

/-- Settles O54: an access writes at most one byte of `CW`, an effect keeps the form, and a reset or a `Fatal` empties the
memories it does not keep. -/
theorem stepKeepsMemoriesCanonical : Obligations.StepKeepsMemoriesCanonical := by
  intro s t hs hstep
  cases step_ending hstep with
  | same h => exact h.canonical hs
  | reset h => exact State.resetEvent_canonical _
  | fatal h hcode =>
    obtain ⟨-, -, -, -, -, -, hcw⟩ := h.canonical hs
    exact ⟨Memory.wf_nil, Memory.wf_nil, templatesWf_empty, Memory.wf_nil, Memory.wf_nil, Memory.wf_nil, hcw⟩
  | effect h hready hv => exact (effectOf_canonical hv (h.canonical hs) :)

end Sys2Proof.Machine
end

section
/-! PROOFS. The plan registers, the readiness flags and the layout registers agree with one another (rules R26 to R31, R35,
R108): each effect that writes one of them writes it where the others allow it. -/

namespace Sys2Proof.Machine

/-! ### The plan registers (rules R26 to R28) -/

/-- What `PlanCoherent` looks at. -/
def planView (s : State) : Bool × BitVec 8 × Word × Word × Word :=
  (s.status.gridInit, s.plan.plancfg.version, s.plan.side, s.plan.stride, s.plan.ncopy)

theorem PlanCoherent.congr {s t : State} (h : planView t = planView s) (hs : PlanCoherent s) : PlanCoherent t := by
  simp only [planView, Prod.mk.injEq] at h
  obtain ⟨hinit, hversion, hside, hstride, hncopy⟩ := h
  intro hg
  obtain ⟨hlo, hhi, h1, h2, h3⟩ := hs (hinit.symm.trans hg)
  exact ⟨by rwa [hversion], by rwa [hversion], by rwa [hside, hversion], by rwa [hstride, hside], by rwa [hncopy]⟩

/-- The commands that begin a plan (rules R121, R131, R186). -/
def beginsPlan : Instr → Bool
  | .gpInit _ | .gpAll _ | .plPlan => true
  | _ => false

theorem SameButGridStep.planView_eq {s t : State} (h : SameButGridStep s t) : planView t = planView s := by
  rw [h]; rfl

theorem SameButTemplates.planView_eq {s t : State} (h : SameButTemplates s t) : planView t = planView s := by
  rw [h]; rfl

theorem blAll_planView {s t : State} (h : blAll s = .done t) : planView t = planView s := by
  rw [blAll_frame h]; rfl

theorem sealPlan_planTemplates_planView (s : State) : planView (sealPlan (planTemplates s)) = planView s := by
  unfold sealPlan
  rw [(planTemplates_sameButFormat s).1]
  rfl

theorem enSelect_planView (s : State) : planView (enSelect s) = planView s := by
  rw [enSelect_frame]; rfl

theorem enPlace_planView {s t : State} (h : enPlace s = .done t) : planView t = planView s := by
  rw [(enPlace_done h).2]; rfl

/-- Every other command keeps what `PlanCoherent` looks at. -/
theorem effectOf_planView {i : Instr} (hi : beginsPlan i = false) {s t : State} (h : effectOf i s = .done t) :
    planView t = planView s := by
  cases i with
  | gpInit | gpAll | plPlan => cases hi
  | gpAlign =>
    obtain ⟨coords, -, rfl⟩ := gpAlign_done h
    exact (gridStep_sameButGridStep _ _ _).planView_eq
  | gpTiming | gpFinder | gpVerinfo | gpFmtrsv | gpDark =>
    simp only [effectOf, Effect.done.injEq] at h
    subst h
    exact (gridStep_sameButGridStep _ _ _).planView_eq
  | blParam => rw [(blParam_done h).2]; rfl
  | blSweep => obtain ⟨grid, p, -, -, rfl⟩ := blSweep_done h; rfl
  | blAll => exact blAll_planView h
  | fiPaint k => cases h; exact (fiPaint_sameButTemplates k s).planView_eq
  | fiPlan m k => cases h; exact (fiPaint_sameButTemplates k (fiEnc m s)).planView_eq
  | mkApply m k => cases h; exact (mkApply_sameButTemplates m k s).planView_eq
  | psRun | psBox | psFind | psBal | psScore =>
    rcases scoreEffect_done h with ⟨b, -, rfl⟩ | ⟨-, rfl⟩ <;> rfl
  | enPlace => exact enPlace_planView h
  | enSelect => cases h; exact enSelect_planView s
  | enEncode =>
    obtain ⟨u, hu, ht⟩ := Effect.andThen_eq_done h
    cases ht
    exact (enSelect_planView u).trans (enPlace_planView hu)
  | nop | reset | blIlv | fiEnc | enCand | enKeep => cases h; rfl

/-- `GP.INIT` begins a plan of a legal version with 1 or 8 templates. -/
theorem gpInit_planShape {n : Nat} {s : State} (hlo : 1 ≤ s.cfg.version.toNat) (hhi : s.cfg.version.toNat ≤ 40)
    (hn : n = 1 ∨ n = 8) : PlanShape (gpInit n s) where
  version_lo := hlo
  version_hi := hhi
  side_eq := gpInit_side n s
  stride_eq := by
    have hside := gpInit_side n s
    have hstride := gpInit_stride n s
    unfold State.side at hside
    unfold State.stride at hstride
    rw [hside, hstride]
  ncopy_eq := by rcases hn with rfl | rfl <;> [exact .inl rfl; exact .inr rfl]

theorem effectOf_planCoherent {i : Instr} {s t : State} (hready : Ready i s) (h : effectOf i s = .done t)
    (hs : PlanCoherent s) : PlanCoherent t := by
  cases hi : beginsPlan i with
  | false => exact hs.congr (effectOf_planView hi h)
  | true =>
    obtain ⟨-, -, hparam, -⟩ := hready
    cases i with
    | gpInit n =>
      cases h
      obtain ⟨hlo, hhi, hn⟩ := (parametersInRange_gpInit_iff n s).1 hparam
      exact fun _ => gpInit_planShape hlo hhi hn
    | gpAll n =>
      obtain ⟨hlo, hhi, hn⟩ := (parametersInRange_gpInit_iff n s).1 hparam
      exact PlanCoherent.congr (gpAll_frame h).1.planView_eq fun _ => gpInit_planShape hlo hhi hn
    | plPlan =>
      obtain ⟨⟨⟨hlo, hhi⟩, -⟩, -⟩ : ((_ ∧ _) ∧ _) ∧ _ := by simpa [parametersInRange] using hparam
      obtain ⟨g, u, hg, hu, rfl⟩ := plPlan_done h
      have hview := (sealPlan_planTemplates_planView u).trans ((blAll_planView hu).trans (gpAll_frame hg).1.planView_eq)
      exact PlanCoherent.congr hview fun _ => gpInit_planShape hlo hhi (by split_ifs <;> simp)
    | _ => cases hi

theorem SameEngine.planView_eq {s t : State} (h : SameEngine s t) : planView t = planView s := by
  rw [h.frame]; rfl

/-- Settles O56: a plan is begun for a legal version with 1 or 8 templates, and nothing else writes these registers but what
clears `GRID_INIT`. -/
theorem stepKeepsPlanCoherent : Obligations.StepKeepsPlanCoherent := by
  intro s t hs hstep
  cases step_ending hstep with
  | same h => exact hs.congr h.planView_eq
  | reset h => exact nofun
  | fatal h hcode => exact nofun
  | effect h hready hv =>
    have hkept := effectOf_planCoherent hready hv (PlanCoherent.congr h.planView_eq hs)
    exact PlanCoherent.congr (State.finish_sameEngine _).planView_eq hkept

/-! ### The readiness flags (rules R35, R108) -/

theorem FlagsCoherent.congr {s t : State} (hstatus : t.status = s.status) (hncopy : t.plan.ncopy = s.plan.ncopy)
    (hcode : t.fatalcode = s.fatalcode) (h : FlagsCoherent s) : FlagsCoherent t := by
  obtain ⟨h1, h2, h3, h4, h5, h6, h7, h8, h9, h10, h11, h12, h13⟩ := h
  constructor <;> simp only [hstatus, hncopy, hcode] <;> assumption

theorem SameEngine.flagsCoherent {s t : State} (h : SameEngine s t) (hs : FlagsCoherent s) : FlagsCoherent t := by
  rw [h.frame]
  exact { hs with }

/-- No readiness flag but `CODE_OK` is set, as `GP.INIT` leaves them. -/
theorem gpInit_flagsCoherent {s : State} (n : Nat) (hs : FlagsCoherent s) (hf : s.status.fatal = false) :
    FlagsCoherent (gpInit n s) where
  step_grid := nofun
  param_grid := nofun
  seq_param := nofun
  layout_gridOk := nofun
  layout_seq := nofun
  fmt_param := nofun
  plan_layout := nofun
  plan_fmt := nofun
  work_layout := nofun
  cand_work := nofun
  cand_search := nofun
  fatal_clear := fun h => absurd (hf.symm.trans h) (by decide)
  fatal_code := hs.fatal_code

theorem gpAll_flagsCoherent {n : Nat} {s t : State} (h : gpAll n s = .done t) (hs : FlagsCoherent s)
    (hf : s.status.fatal = false) : FlagsCoherent t := by
  rw [(gpAll_frame h).1]
  exact { gpInit_flagsCoherent n hs hf with
    step_grid := nofun
    layout_gridOk := nofun }

/-- A grid step in a plan begun and not laid out. -/
theorem gridStep_flagsCoherent {s : State} (ps : List Paint) (k : Fin 7) (hs : FlagsCoherent s)
    (hg : s.status.gridInit = true) (hl : s.status.layoutOk = false) : FlagsCoherent (gridStep ps k s) := by
  rw [gridStep_sameButGridStep ps k s]
  exact { hs with
    step_grid := fun h => absurd (hg.symm.trans h) (by decide)
    layout_gridOk := fun h => absurd (hl.symm.trans h) (by decide) }

/-- A grid step in its own `GPSTEP`, which is not the last: the plan is not laid out. -/
theorem FlagsCoherent.layoutOk_of_atStep {s : State} (hs : FlagsCoherent s) {k : Fin 7} (hk : k ≠ 6)
    (h : s.status.gpstep = k) : s.status.layoutOk = false := by
  rw [← Bool.not_eq_true]
  intro hl
  have hgrid := hs.layout_gridOk hl
  simp only [Status.gridOk, Bool.and_eq_true, beq_iff_eq] at hgrid
  exact hk (h.symm.trans hgrid.2)

/-- `BL.PARAM` in an open plan. -/
theorem blParam_flagsCoherent {s t : State} (h : blParam s = .done t) (hs : FlagsCoherent s)
    (hg : s.status.gridInit = true) (hl : s.status.layoutOk = false) (hp : s.status.planOk = false) :
    FlagsCoherent t := by
  rw [(blParam_done h).2]
  exact { hs with
    param_grid := fun _ => hg
    seq_param := nofun
    layout_seq := fun h => absurd (hl.symm.trans h) (by decide)
    fmt_param := nofun
    plan_fmt := fun h => absurd (hp.symm.trans h) (by decide) }

theorem blIlv_flagsCoherent {s : State} (hs : FlagsCoherent s) (hparam : s.status.paramOk = true) :
    FlagsCoherent (blIlv s) :=
  { hs with
    seq_param := fun _ => hparam
    layout_seq := fun _ => rfl }

theorem blSweep_flagsCoherent {s t : State} (h : blSweep s = .done t) (hs : FlagsCoherent s)
    (hgrid : s.status.gridOk = true) (hseq : s.status.seqOk = true) : FlagsCoherent t := by
  obtain ⟨grid, p, -, -, rfl⟩ := blSweep_done h
  exact { hs with
    layout_gridOk := fun _ => hgrid
    layout_seq := fun _ => hseq
    plan_layout := fun _ => rfl
    work_layout := fun _ => rfl }

theorem blAll_flagsCoherent {s t : State} (h : blAll s = .done t) (hs : FlagsCoherent s) (hg : s.status.gridInit = true)
    (hstep : s.status.gpstep = 6) (hl : s.status.layoutOk = false) (hp : s.status.planOk = false) : FlagsCoherent t := by
  obtain ⟨u, hu, ht⟩ := blAll_done h
  have hframe := (blParam_done hu).2
  have hparam := blParam_flagsCoherent hu hs hg hl hp
  refine blSweep_flagsCoherent ht (blIlv_flagsCoherent hparam (by rw [hframe]; rfl)) ?_ rfl
  rw [hframe]
  simp [Status.gridOk, blIlv, hg, hstep]

theorem fiEnc_flagsCoherent (m : Nat) {s : State} (hs : FlagsCoherent s) (hparam : s.status.paramOk = true) :
    FlagsCoherent (fiEnc m s) :=
  { hs with
    fmt_param := fun _ => hparam
    plan_fmt := fun _ => rfl }

theorem SameButTemplates.flagsCoherent {s t : State} (h : SameButTemplates s t) (hs : FlagsCoherent s) :
    FlagsCoherent t := by
  rw [h]
  exact { hs with }

/-- The templates of `PL.PLAN`, and its seal, on a plan laid out. -/
theorem sealPlan_planTemplates_flagsCoherent {s : State} (hs : FlagsCoherent s) (hl : s.status.layoutOk = true) :
    FlagsCoherent (sealPlan (planTemplates s)) := by
  obtain ⟨hframe, hfmt⟩ := planTemplates_sameButFormat s
  unfold sealPlan
  rw [hframe]
  exact { hs with
    fmt_param := fun _ => hs.seq_param (hs.layout_seq hl)
    plan_layout := fun _ => hl
    plan_fmt := fun _ => hfmt }

theorem plPlan_flagsCoherent {s t : State} (h : plPlan s = .done t) (hs : FlagsCoherent s) (hf : s.status.fatal = false) :
    FlagsCoherent t := by
  obtain ⟨g, u, hg, hu, rfl⟩ := plPlan_done h
  obtain ⟨hframe, hstep⟩ := gpAll_frame hg
  have hlaid := blAll_flagsCoherent hu (gpAll_flagsCoherent hg hs hf) (by rw [hframe]; rfl) hstep (by rw [hframe]; rfl)
    (by rw [hframe]; rfl)
  exact sealPlan_planTemplates_flagsCoherent hlaid (by rw [blAll_frame hu])

/-! The encode commands: `EN.PLACE` and its followers set their flags on a plan laid out. -/

theorem enPlace_flagsCoherent {s t : State} (h : enPlace s = .done t) (hs : FlagsCoherent s)
    (hl : s.status.layoutOk = true) : FlagsCoherent t := by
  rw [(enPlace_done h).2]
  exact { hs with
    work_layout := fun _ => hl
    cand_work := nofun
    cand_search := nofun
    fatal_clear := fun hf => ⟨(hs.fatal_clear hf).1, rfl, (hs.fatal_clear hf).2.2⟩ }

theorem enCand_flagsCoherent (k : Nat) {s : State} (hs : FlagsCoherent s) (hw : s.status.workOk = true)
    (hn : s.plan.ncopy = 8) : FlagsCoherent (enCand k s) :=
  { hs with
    cand_work := fun _ => hw
    cand_search := fun _ => hn
    fatal_clear := fun hf => ⟨(hs.fatal_clear hf).1, rfl, (hs.fatal_clear hf).2.2⟩ }

/-- Past test 1 the two flags no other depends on may stand as they like. -/
theorem FlagsCoherent.of_unlocked {s t : State} (hs : FlagsCoherent s) (hf : s.status.fatal = false)
    (hstatus : t.status = { s.status with penOk := t.status.penOk, codeOk := t.status.codeOk })
    (hncopy : t.plan.ncopy = s.plan.ncopy) (hcode : t.fatalcode = s.fatalcode) : FlagsCoherent t := by
  refine FlagsCoherent.congr (s := { s with
    status := { s.status with penOk := t.status.penOk, codeOk := t.status.codeOk } }) hstatus hncopy hcode ?_
  exact { hs with fatal_clear := fun h => absurd (hf.symm.trans h) (by decide) }

/-- `EN.SELECT` makes candidates on a plan of eight templates only. -/
theorem enSelect_flagsCoherent {s : State} (hs : FlagsCoherent s) (hplan : PlanCoherent s) (hf : s.status.fatal = false)
    (hw : s.status.workOk = true) : FlagsCoherent (enSelect s) := by
  by_cases hn : s.ncopy = 1
  · rw [enSelect, if_pos hn]
    exact hs.of_unlocked hf rfl rfl rfl
  · have hshape := hplan (hs.param_grid (hs.seq_param (hs.layout_seq (hs.work_layout hw))))
    have height : s.plan.ncopy = 8 := hshape.ncopy_eq.resolve_left fun h1 => hn (congrArg BitVec.toNat h1)
    rw [enSelect_frame]
    exact { hs with
      cand_work := fun _ => hw
      cand_search := fun _ => height
      fatal_clear := fun h => absurd (hf.symm.trans h) (by decide) }

/-- Every effect of a ready command keeps the flags coherent. -/
theorem effectOf_flagsCoherent {i : Instr} {s t : State} (hready : Ready i s) (h : effectOf i s = .done t)
    (hs : FlagsCoherent s) (hplan : PlanCoherent s) : FlagsCoherent t := by
  obtain ⟨hf, hpre, -, -⟩ := hready
  cases i with
  | nop | reset => cases h; exact hs
  | gpInit n => cases h; exact gpInit_flagsCoherent n hs hf
  | gpTiming | gpFinder | gpVerinfo | gpFmtrsv | gpDark =>
    simp only [effectOf, Effect.done.injEq] at h
    subst h
    obtain ⟨hg, hk⟩ := (atStep_eq_true_iff _ s).1 hpre
    exact gridStep_flagsCoherent _ _ hs hg (hs.layoutOk_of_atStep (by decide) hk)
  | gpAlign =>
    obtain ⟨coords, -, rfl⟩ := gpAlign_done h
    obtain ⟨hg, hk⟩ := (atStep_eq_true_iff 2 s).1 hpre
    exact gridStep_flagsCoherent _ _ hs hg (hs.layoutOk_of_atStep (by decide) hk)
  | gpAll n => exact gpAll_flagsCoherent h hs hf
  | blParam =>
    obtain ⟨hg, hl, hp⟩ := (precondition_blParam_iff s).1 hpre
    exact blParam_flagsCoherent h hs hg hl hp
  | blIlv => cases h; exact blIlv_flagsCoherent hs ((precondition_blIlv_iff s).1 hpre).1
  | blSweep =>
    obtain ⟨hg, hstep, hseq, -⟩ := (precondition_blSweep_iff s).1 hpre
    exact blSweep_flagsCoherent h hs (by simp [Status.gridOk, hg, hstep]) hseq
  | blAll =>
    obtain ⟨hg, hstep, hl, hp⟩ := (precondition_blAll_iff s).1 hpre
    exact blAll_flagsCoherent h hs hg hstep hl hp
  | fiEnc m => cases h; exact fiEnc_flagsCoherent m hs ((precondition_fiEnc_iff m s).1 hpre).1
  | fiPaint k => cases h; exact (fiPaint_sameButTemplates k s).flagsCoherent hs
  | fiPlan m k =>
    cases h
    obtain ⟨-, -, hparam, -⟩ := (precondition_fiPlan_iff m k s).1 hpre
    exact (fiPaint_sameButTemplates k (fiEnc m s)).flagsCoherent (fiEnc_flagsCoherent m hs hparam)
  | mkApply m k => cases h; exact (mkApply_sameButTemplates m k s).flagsCoherent hs
  | plPlan => exact plPlan_flagsCoherent h hs hf
  | psRun | psBox | psFind | psBal | psScore =>
    rcases scoreEffect_done h with ⟨b, -, rfl⟩ | ⟨-, rfl⟩
    · exact hs.of_unlocked hf rfl rfl rfl
    · exact hs
  | enPlace => exact enPlace_flagsCoherent h hs hpre
  | enCand k =>
    cases h
    obtain ⟨hw, hn⟩ := (precondition_enCand_iff k s).1 hpre
    exact enCand_flagsCoherent k hs hw (s.ncopy_eq_eight_iff.1 hn)
  | enKeep => cases h; exact hs.of_unlocked hf rfl rfl rfl
  | enSelect => cases h; exact enSelect_flagsCoherent hs hplan hf hpre
  | enEncode =>
    obtain ⟨u, hu, ht⟩ := Effect.andThen_eq_done h
    cases ht
    exact enSelect_flagsCoherent (enPlace_flagsCoherent hu hs hpre) (hplan.congr (enPlace_planView hu))
      ((enPlace_keeps hu).fatal.trans hf) (by rw [(enPlace_done hu).2]; rfl)

/-- No flag set and no `FATALCODE`. -/
theorem resetEvent_flagsCoherent (s : State) : FlagsCoherent s.resetEvent := by
  constructor <;> simp [Status.zero]

theorem raiseFatal_flagsCoherent (s : State) {code : FatalCode} (hcode : code ≠ .none) :
    FlagsCoherent (s.raiseFatal code) := by
  constructor <;> simp [hcode]

/-- Settles O57: the flags are coherent after a reset and a `Fatal`, and an effect sets a flag only where its precondition
(rule R108) or an earlier part of it has set those the flag implies. -/
theorem stepKeepsFlagsCoherent : Obligations.StepKeepsFlagsCoherent := by
  intro s t hplan hs hstep
  cases step_ending hstep with
  | same h => exact h.flagsCoherent hs
  | reset h => exact resetEvent_flagsCoherent _
  | fatal h hcode => exact raiseFatal_flagsCoherent _ hcode
  | effect h hready hv =>
    have hkept := effectOf_flagsCoherent hready hv (h.flagsCoherent hs) (PlanCoherent.congr h.planView_eq hplan)
    exact (State.finish_sameEngine _).flagsCoherent hkept

end Sys2Proof.Machine
end

section
/-! PROOFS. The layout registers (rules R29 to R31): `BL.PARAM` gives the block sizes, `BL.ILV` the length of `SEQ`, and the
sweep consumes no more entries than there are. -/

namespace Sys2Proof.Machine

/-- The sweep stops before it runs out of entries. -/
theorem sweepLoop_le_seqlen {s : State} {visits : List (Nat × Nat)} {grid filled : Memory Cell} {p q : Nat}
    (h : sweepLoop s visits grid p = some (filled, q)) (hp : p ≤ s.plan.seqlen.toNat) : q ≤ s.plan.seqlen.toNat := by
  induction visits generalizing grid p with
  | nil =>
    obtain ⟨-, rfl⟩ : grid = filled ∧ p = q := by simpa [sweepLoop] using h
    exact hp
  | cons v visits ih =>
    rw [sweepLoop_cons] at h
    split_ifs at h with hfree hfull
    · exact ih h (by omega)
    · exact ih h hp

/-- While no flag says that they are meaningful, nothing is asked of the layout registers. -/
theorem layoutCoherent_of_flags_clear {s : State} (hparam : s.status.paramOk = false) (hseq : s.status.seqOk = false)
    (hl : s.status.layoutOk = false) : LayoutCoherent s where
  block h := absurd (hparam.symm.trans h) (by decide)
  seqlen h := absurd (hseq.symm.trans h) (by decide)
  free h := absurd (hl.symm.trans h) (by decide)

theorem gpInit_layoutCoherent (n : Nat) (s : State) : LayoutCoherent (gpInit n s) :=
  layoutCoherent_of_flags_clear rfl rfl rfl

theorem SameButGridStep.layoutCoherent {s t : State} (h : SameButGridStep s t) (hs : LayoutCoherent s) :
    LayoutCoherent t := by
  rw [h]
  exact { hs with block := fun hp => { hs.block hp with } }

theorem SameEngine.layoutCoherent {s t : State} (h : SameEngine s t) (hs : LayoutCoherent s) : LayoutCoherent t := by
  rw [h.frame]
  exact { hs with block := fun hp => { hs.block hp with } }

/-- `BL.PARAM` in a plan not laid out. -/
theorem blParam_layoutCoherent {s t : State} (h : blParam s = .done t) (hlevel : s.cfg.level.toNat ≤ 3)
    (hl : s.status.layoutOk = false) : LayoutCoherent t := by
  obtain ⟨hsound, hframe⟩ := blParam_done h
  obtain ⟨t', ht', hblock, -⟩ := blParam_isDone hlevel hsound
  obtain rfl : t' = t := Effect.done.inj (ht'.symm.trans h)
  have hseq : t'.status.seqOk = false := by rw [hframe]; rfl
  have hl' : t'.status.layoutOk = false := by rw [hframe]; exact hl
  exact ⟨fun _ => hblock, fun h => absurd (hseq.symm.trans h) (by decide), fun h => absurd (hl'.symm.trans h) (by decide)⟩

theorem blIlv_layoutCoherent {s : State} (hs : LayoutCoherent s) (hparam : s.status.paramOk = true)
    (hl : s.status.layoutOk = false) : LayoutCoherent (blIlv s) where
  block _ := { hs.block hparam with }
  seqlen _ := (hs.block hparam).blIlv_seqlen
  free h := absurd (hl.symm.trans h) (by decide)

theorem blSweep_layoutCoherent {s t : State} (h : blSweep s = .done t) (hs : LayoutCoherent s) : LayoutCoherent t := by
  obtain ⟨grid, p, hloop, hstream, rfl⟩ := blSweep_done h
  have hle := sweepLoop_le_seqlen hloop (Nat.zero_le _)
  have hfree : (BitVec.ofNat 32 p).toNat = p := by
    have := s.plan.seqlen.isLt
    rw [BitVec.toNat_ofNat, Nat.mod_eq_of_lt (by omega)]
  exact { hs with
    block := fun hp => { hs.block hp with }
    free := fun _ => ⟨by rw [hfree]; exact hstream, by rw [hfree]; exact hle⟩ }

theorem blAll_layoutCoherent {s t : State} (h : blAll s = .done t) (hlevel : s.cfg.level.toNat ≤ 3)
    (hl : s.status.layoutOk = false) : LayoutCoherent t := by
  obtain ⟨u, hu, ht⟩ := blAll_done h
  have hframe := (blParam_done hu).2
  exact blSweep_layoutCoherent ht (blIlv_layoutCoherent (blParam_layoutCoherent hu hlevel hl) (by rw [hframe]; rfl)
    (by rw [hframe]; exact hl))

theorem SameButTemplates.layoutCoherent {s t : State} (h : SameButTemplates s t) (hs : LayoutCoherent s) :
    LayoutCoherent t := by
  rw [h]
  exact { hs with block := fun hp => { hs.block hp with } }

theorem fiEnc_layoutCoherent (m : Nat) {s : State} (hs : LayoutCoherent s) : LayoutCoherent (fiEnc m s) :=
  { hs with block := fun hp => { hs.block hp with } }

theorem sealPlan_planTemplates_layoutCoherent {s : State} (hs : LayoutCoherent s) :
    LayoutCoherent (sealPlan (planTemplates s)) := by
  unfold sealPlan
  rw [(planTemplates_sameButFormat s).1]
  exact { hs with block := fun hp => { hs.block hp with } }

theorem plPlan_layoutCoherent {s t : State} (h : plPlan s = .done t) (hlevel : s.cfg.level.toNat ≤ 3) :
    LayoutCoherent t := by
  obtain ⟨g, u, hg, hu, rfl⟩ := plPlan_done h
  refine sealPlan_planTemplates_layoutCoherent (blAll_layoutCoherent hu ?_ ?_)
  · rwa [(gpAll_keeps hg).cfg]
  · rw [(gpAll_frame hg).1]; rfl

theorem enPlace_layoutCoherent {s t : State} (h : enPlace s = .done t) (hs : LayoutCoherent s) : LayoutCoherent t := by
  rw [(enPlace_done h).2]
  exact { hs with block := fun hp => { hs.block hp with } }

theorem enSelect_layoutCoherent {s : State} (hs : LayoutCoherent s) : LayoutCoherent (enSelect s) := by
  rw [enSelect_frame]
  exact { hs with block := fun hp => { hs.block hp with } }

/-- Every effect of a ready command keeps the layout registers coherent. -/
theorem effectOf_layoutCoherent {i : Instr} {s t : State} (hready : Ready i s) (h : effectOf i s = .done t)
    (hs : LayoutCoherent s) : LayoutCoherent t := by
  obtain ⟨-, hpre, hparam, -⟩ := hready
  cases i with
  | nop | reset => cases h; exact hs
  | gpInit n => cases h; exact gpInit_layoutCoherent n s
  | gpTiming | gpFinder | gpVerinfo | gpFmtrsv | gpDark =>
    simp only [effectOf, Effect.done.injEq] at h
    subst h
    exact (gridStep_sameButGridStep _ _ _).layoutCoherent hs
  | gpAlign =>
    obtain ⟨coords, -, rfl⟩ := gpAlign_done h
    exact (gridStep_sameButGridStep _ _ _).layoutCoherent hs
  | gpAll n => exact (gpAll_frame h).1.layoutCoherent (gpInit_layoutCoherent n s)
  | blParam => exact blParam_layoutCoherent h (of_decide_eq_true hparam) ((precondition_blParam_iff s).1 hpre).2.1
  | blIlv =>
    cases h
    obtain ⟨hparam, hl, -⟩ := (precondition_blIlv_iff s).1 hpre
    exact blIlv_layoutCoherent hs hparam hl
  | blSweep => exact blSweep_layoutCoherent h hs
  | blAll => exact blAll_layoutCoherent h (of_decide_eq_true hparam) ((precondition_blAll_iff s).1 hpre).2.2.1
  | fiEnc m => cases h; exact fiEnc_layoutCoherent m hs
  | fiPaint k => cases h; exact (fiPaint_sameButTemplates k s).layoutCoherent hs
  | fiPlan m k => cases h; exact (fiPaint_sameButTemplates k (fiEnc m s)).layoutCoherent (fiEnc_layoutCoherent m hs)
  | mkApply m k => cases h; exact (mkApply_sameButTemplates m k s).layoutCoherent hs
  | plPlan =>
    obtain ⟨⟨-, hlevel⟩, -⟩ : (_ ∧ s.cfg.level.toNat ≤ 3) ∧ _ := by simpa [parametersInRange] using hparam
    exact plPlan_layoutCoherent h hlevel
  | psRun | psBox | psFind | psBal | psScore =>
    rcases scoreEffect_done h with ⟨b, -, rfl⟩ | ⟨-, rfl⟩
    · exact { hs with block := fun hp => { hs.block hp with } }
    · exact hs
  | enPlace => exact enPlace_layoutCoherent h hs
  | enCand | enKeep => cases h; exact { hs with block := fun hp => { hs.block hp with } }
  | enSelect => cases h; exact enSelect_layoutCoherent hs
  | enEncode =>
    obtain ⟨u, hu, ht⟩ := Effect.andThen_eq_done h
    cases ht
    exact enSelect_layoutCoherent (enPlace_layoutCoherent hu hs)

theorem resetEvent_layoutCoherent (s : State) : LayoutCoherent s.resetEvent := layoutCoherent_of_flags_clear rfl rfl rfl

theorem raiseFatal_layoutCoherent (s : State) (code : FatalCode) : LayoutCoherent (s.raiseFatal code) :=
  layoutCoherent_of_flags_clear rfl rfl rfl

/-- Settles O58: the three commands that write these registers compute them from the record, and no flag is set where a
`Fatal` or a reset has left them. -/
theorem stepKeepsLayoutCoherent : Obligations.StepKeepsLayoutCoherent := by
  intro s t _ hs hstep
  cases step_ending hstep with
  | same h => exact h.layoutCoherent hs
  | reset h => exact resetEvent_layoutCoherent _
  | fatal h hcode => exact raiseFatal_layoutCoherent _ _
  | effect h hready hv =>
    exact (State.finish_sameEngine _).layoutCoherent (effectOf_layoutCoherent hready hv (h.layoutCoherent hs))

/-- Settles O55: after a reset nothing is listed and no flag is set. -/
theorem invariantsHoldAfterReset : Obligations.InvariantsHoldAfterReset := by
  have hcanonical : Canonical State.reset := State.resetEvent_canonical State.reset
  refine ⟨hcanonical, nofun, ?_, layoutCoherent_of_flags_clear rfl rfl rfl⟩
  exact { resetEvent_flagsCoherent State.reset with }

end Sys2Proof.Machine
end

section
/-! PROOFS. The words the host reads and the locations it names (rules R35, R43, R45, R80, R81, R86, R87). -/

namespace Sys2Proof.Machine

open Sys2Proof.Claims

/-! ### The words (rules R22, R26, R35, R43, R45) -/

theorem Selection.toNat_word (x : Selection) :
    x.word.toNat = x.version.toNat + 256 * x.level.toNat + 4096 * x.mask.toNat := by
  have hversion := x.version.isLt
  have hlevel := x.level.isLt
  have hmask := x.mask.isLt
  simp only [Selection.word, BitVec.toNat_ofNat, Nat.shiftLeft_eq]
  omega

theorem toNat_cellWord (x : Cell) : (cellWord x).toNat = x.role.code + 16 * x.off.toNat := by
  have hoff := x.off.isLt
  have hrole : x.role.code < 16 := by cases x.role <;> decide
  simp only [cellWord, BitVec.toNat_ofNat, Nat.shiftLeft_eq]
  omega

/-- A bit of a word, as a remainder of its number. -/
theorem getLsbD_eq_of_toNat {w : Word} {i : Nat} {b : Bool} (h : w.toNat / 2 ^ i % 2 = b.toNat) : w.getLsbD i = b := by
  rw [← BitVec.testBit_toNat, Nat.testBit_eq_decide_div_mod_eq, h]
  cases b <;> rfl

/-- The fields of `STATUS`, each below the place of the next. -/
structure Status.Bounds (st : Status) : Prop where
  busy     : st.busy.toNat ≤ 1
  fatal    : st.fatal.toNat ≤ 1
  err      : st.err.code ≤ 6
  gridInit : st.gridInit.toNat ≤ 1
  gpstep   : st.gpstep.val ≤ 6
  paramOk  : st.paramOk.toNat ≤ 1
  seqOk    : st.seqOk.toNat ≤ 1
  layoutOk : st.layoutOk.toNat ≤ 1
  fmtOk    : st.fmtOk.toNat ≤ 1
  planOk   : st.planOk.toNat ≤ 1
  workOk   : st.workOk.toNat ≤ 1
  candOk   : st.candOk.toNat ≤ 1
  penOk    : st.penOk.toNat ≤ 1
  codeOk   : st.codeOk.toNat ≤ 1

theorem Status.bounds (st : Status) : st.Bounds where
  busy := Bool.toNat_le _
  fatal := Bool.toNat_le _
  err := by cases st.err <;> decide
  gridInit := Bool.toNat_le _
  gpstep := Nat.le_of_lt_succ st.gpstep.isLt
  paramOk := Bool.toNat_le _
  seqOk := Bool.toNat_le _
  layoutOk := Bool.toNat_le _
  fmtOk := Bool.toNat_le _
  planOk := Bool.toNat_le _
  workOk := Bool.toNat_le _
  candOk := Bool.toNat_le _
  penOk := Bool.toNat_le _
  codeOk := Bool.toNat_le _

/-- `STATUS` as a sum of its fields, each at its bits. -/
theorem Status.toNat_word (st : Status) :
    st.word.toNat = st.busy.toNat + 2 * st.fatal.toNat + 16 * st.err.code + 256 * st.gridInit.toNat
      + 512 * st.gpstep.val + 4096 * st.paramOk.toNat + 8192 * st.seqOk.toNat + 16384 * st.layoutOk.toNat
      + 32768 * st.fmtOk.toNat + 65536 * st.planOk.toNat + 131072 * st.workOk.toNat + 262144 * st.candOk.toNat
      + 524288 * st.penOk.toNat + 1048576 * st.codeOk.toNat := by
  obtain ⟨h1, h2, h3, h4, h5, h6, h7, h8, h9, h10, h11, h12, h13, h14⟩ := st.bounds
  simp only [Status.word, BitVec.toNat_ofNat, Nat.shiftLeft_eq]
  omega

/-- Settles O53: the number of a word is the sum of its fields, each times the place of its lowest bit. -/
theorem wordsHaveTheirFields : Obligations.WordsHaveTheirFields := by
  refine ⟨fun st => ?_, fun x => ?_, fun x => ?_⟩
  · have h := st.toNat_word
    obtain ⟨h1, h2, h3, h4, h5, h6, h7, h8, h9, h10, h11, h12, h13, h14⟩ := st.bounds
    have herr : st.word.toNat / 16 % 16 = st.err.code := by omega
    refine ⟨getLsbD_eq_of_toNat ?_, getLsbD_eq_of_toNat ?_, ?_, herr.trans (by cases st.err <;> rfl),
      getLsbD_eq_of_toNat ?_, ?_, getLsbD_eq_of_toNat ?_, getLsbD_eq_of_toNat ?_, getLsbD_eq_of_toNat ?_,
      getLsbD_eq_of_toNat ?_, getLsbD_eq_of_toNat ?_, getLsbD_eq_of_toNat ?_, getLsbD_eq_of_toNat ?_,
      getLsbD_eq_of_toNat ?_, getLsbD_eq_of_toNat ?_, ?_⟩ <;> omega
  · have h := toNat_cellWord x
    have hcode : x.role.code < 16 := by cases x.role <;> decide
    have hrole : (cellWord x).toNat % 16 = x.role.code := by omega
    exact ⟨hrole.trans (by cases x.role <;> rfl), by omega⟩
  · have h := x.toNat_word
    have hversion := x.version.isLt
    have hlevel := x.level.isLt
    have hmask := x.mask.isLt
    omega

/-- Four bytes packed are the bytes side by side. -/
theorem packBytes_eq_append (b0 b1 b2 b3 : BitVec 8) : packBytes b0 b1 b2 b3 = b3 ++ b2 ++ b1 ++ b0 := by
  have h0 := b0.isLt
  have h1 := b1.isLt
  have h2 := b2.isLt
  have h3 := b3.isLt
  rw [← BitVec.toNat_inj, packBytes]
  simp only [BitVec.toNat_ofNat, BitVec.toNat_append]
  rw [← Nat.shiftLeft_add_eq_or_of_lt h2, ← Nat.shiftLeft_add_eq_or_of_lt h1, ← Nat.shiftLeft_add_eq_or_of_lt h0]
  simp only [Nat.shiftLeft_eq]
  omega

/-- A word extended with zeros is those zeros before it. -/
theorem setWidth_eq_zero_append {n w : Nat} (x : BitVec w) : x.setWidth (n + w) = (0 : BitVec n) ++ x := by
  ext i hi
  simp only [BitVec.getElem_setWidth, BitVec.getElem_append]
  split_ifs with h
  · exact BitVec.getLsbD_eq_getElem h
  · simp [BitVec.getLsbD_of_ge x i (by omega)]

/-- The words of a record are its fields side by side (rule R43). -/
theorem capWord_eq_recordWord (e : CapEntry) (i : Nat) : capWord e i = recordWord e i := by
  match i with
  | 0 => exact setWidth_eq_zero_append e.bytes
  | 1 => rw [capWord, packBytes_eq_append]; rfl
  | 2 => exact setWidth_eq_zero_append (n := 14) e.vpat
  | 3 => exact packBytes_eq_append _ _ _ _
  | 4 => exact packBytes_eq_append _ _ _ _
  | _ + 5 => rfl

theorem capWord_zero (i : Nat) : capWord CapEntry.zero i = 0 := by
  match i with
  | 0 | 1 | 2 | 3 | 4 => rfl
  | _ + 5 => rfl

theorem capRecord_eq_zero {v : Nat} (config : Config) (h : ¬ (1 ≤ v ∧ v ≤ 40)) : capRecord config v = CapEntry.zero := by
  unfold capRecord
  split_ifs with h0
  · rfl
  · rw [Vector.getElem?_eq_none (by omega)]
    rfl

/-! ### The locations (rules R80, R81) -/

section
variable {n : Nat} (hn : n < 2 ^ 20)
include hn

theorem locationOf_word : locationOf (BitVec.ofNat 20 n) 4 = wordLocation n := by
  rw [locationOf, if_pos rfl, BitVec.toNat_ofNat, Nat.mod_eq_of_lt hn]

theorem locationOf_byte : locationOf (BitVec.ofNat 20 n) 1 = byteLocation n := by
  rw [locationOf, if_neg (by decide), if_pos rfl, BitVec.toNat_ofNat, Nat.mod_eq_of_lt hn]

end

theorem wordLocation_register {a : Nat} (h4 : a % 4 = 0) (h : a < 0x100) : wordLocation a = some (.register a) :=
  wordLocation_eq_register_iff.2 ⟨rfl, h4, h⟩

theorem wordLocation_cap {v i : Nat} (hv : v < 64) (hi : i < 8) :
    wordLocation (0x800 + 32 * v + 4 * i) = some (.cap v i) := by
  rw [wordLocation, if_neg (by omega), if_neg (by omega), if_neg (by omega), if_pos (by omega)]
  congr 2 <;> omega

theorem wordLocation_grid {r c : Nat} (hr : r < 256) (hc : c < 256) :
    wordLocation (0x40000 + 4 * (256 * r + c)) = some (.grid r c) := by
  rw [wordLocation, if_neg (by omega), if_neg (by omega), if_neg (by omega), if_neg (by omega), if_neg (by omega),
    if_pos (by omega)]
  congr 2 <;> omega

theorem wordLocation_seq {i : Nat} (hi : i < 32768) : wordLocation (0x80000 + 4 * i) = some (.seq i) := by
  rw [wordLocation, if_neg (by omega), if_neg (by omega), if_neg (by omega), if_neg (by omega), if_neg (by omega),
    if_neg (by omega), if_pos (by omega)]
  congr 2; omega

theorem wordLocation_misaligned {a : Nat} (h : a % 4 ≠ 0) : wordLocation a = none := if_pos h

theorem wordLocation_reserved {a : Nat}
    (h : (0x100 ≤ a ∧ a < 0x800) ∨ (0x1000 ≤ a ∧ a < 0x40000) ∨ 0xA0000 ≤ a) : wordLocation a = none := by
  unfold wordLocation
  split_ifs <;> try omega
  all_goals rfl

theorem byteLocation_reserved {a : Nat} (h : a < 0x1000 ∨ (0x5000 ≤ a ∧ a < 0x8000) ∨ 0x10000 ≤ a) :
    byteLocation a = none := by
  unfold byteLocation
  split_ifs <;> try omega
  all_goals rfl

theorem byteLocation_cw {j : Nat} (hj : j < 0x1000) : byteLocation (0x1000 + j) = some (.cw j) := by
  rw [byteLocation, if_neg (by omega), if_pos (by omega), Nat.add_sub_cancel_left]

theorem byteLocation_out {j : Nat} (hj : j < 0x1000) : byteLocation (0x2000 + j) = some (.out j) := by
  rw [byteLocation, if_neg (by omega), if_neg (by omega), if_pos (by omega), Nat.add_sub_cancel_left]

theorem byteLocation_work {j : Nat} (hj : j < 0x1000) : byteLocation (0x3000 + j) = some (.work j) := by
  rw [byteLocation, if_neg (by omega), if_neg (by omega), if_neg (by omega), if_pos (by omega), Nat.add_sub_cancel_left]

theorem byteLocation_cand {j : Nat} (hj : j < 0x1000) : byteLocation (0x4000 + j) = some (.cand j) := by
  rw [byteLocation, if_neg (by omega), if_neg (by omega), if_neg (by omega), if_neg (by omega), if_pos (by omega),
    Nat.add_sub_cancel_left]

theorem byteLocation_tpl {k j : Nat} (hk : k < 8) (hj : j < 0x1000) :
    byteLocation (0x8000 + 0x1000 * k + j) = some (.tpl k j) := by
  rw [byteLocation, if_neg (by omega), if_neg (by omega), if_neg (by omega), if_neg (by omega), if_neg (by omega),
    if_neg (by omega), if_pos (by omega)]
  simp only [Option.some.injEq, Location.tpl.injEq]
  omega

theorem byteLocation_eq_cw_iff {a j : Nat} :
    byteLocation a = some (.cw j) ↔ 0x1000 ≤ a ∧ a < 0x2000 ∧ a - 0x1000 = j := by
  unfold byteLocation
  split_ifs <;> simp <;> omega

theorem wordLocation_ne_cw (a j : Nat) : wordLocation a ≠ some (.cw j) := by
  unfold wordLocation
  split_ifs <;> simp

/-- A byte of `CW` is named by the byte access at its address, and by no other access. -/
theorem locationOf_eq_cw_iff {addr : BitVec 20} {width j : Nat} :
    locationOf addr width = some (.cw j)
      ↔ width = 1 ∧ 0x1000 ≤ addr.toNat ∧ addr.toNat < 0x2000 ∧ addr.toNat - 0x1000 = j := by
  unfold locationOf
  split_ifs with h4 h1
  · simp only [wordLocation_ne_cw, h4, false_iff]
    omega
  · simp only [byteLocation_eq_cw_iff, h1, true_and]
  · simp [h1]

/-! ### The reads of an idle block (rule R86) -/

theorem memRead_of_no_location {s : State} {addr : BitVec 20} {width : Nat} (h : locationOf addr width = none) :
    memRead s addr width = none := by
  simp only [memRead, h]

theorem registerMap_offsets (s : State) : (registerMap s).map Prod.fst =
    [0x00, 0x08, 0x0C, 0x10, 0x14, 0x18, 0x20, 0x24, 0x28, 0x2C, 0x30, 0x34, 0x38, 0x3C, 0x40, 0x44, 0x48, 0x4C, 0x50, 0x60,
      0x64, 0x68, 0x6C, 0x70, 0x74, 0x78, 0x80, 0x84, 0x88, 0x8C, 0x90, 0x94, 0x98, 0x9C, 0xA0, 0xA4] := rfl

theorem offset_of_mem_registerMap {s : State} {p : Nat × Word} (hp : p ∈ registerMap s) : p.1 % 4 = 0 ∧ p.1 < 0x100 := by
  have hall : ∀ o ∈ (registerMap s).map Prod.fst, o % 4 = 0 ∧ o < 0x100 := by
    rw [registerMap_offsets]
    decide
  exact hall p.1 (List.mem_map_of_mem hp)

/-- The map lists each register at its offset. -/
theorem readRegister_of_mem_registerMap {s : State} {p : Nat × Word} (hp : p ∈ registerMap s) :
    readRegister s p.1 = some p.2 := by
  have hmap : (registerMap s).map (fun p => readRegister s p.1) = (registerMap s).map fun p => some p.2 := by
    obtain ⟨status, cfg, cwlen, errcmd, fatalcode, rest⟩ := s
    cases fatalcode <;> rfl
  exact List.map_inj_left.1 hmap p hp

theorem readRegister_reserved {s : State} {offset : Nat} (h : offset ∉ (registerMap s).map Prod.fst) :
    readRegister s offset = none := by
  rw [registerMap_offsets] at h
  unfold readRegister
  split
  case h_37 => rfl
  all_goals exact absurd (by decide) h

section
variable {s : State} (hb : s.status.busy = false) {n : Nat} (hn : n < 2 ^ 20) {loc : Location}
include hb hn

theorem memRead_word (hl : wordLocation n = some loc) : memRead s (BitVec.ofNat 20 n) 4 = readLocation s loc :=
  memRead_of_idle hb ((locationOf_word hn).trans hl)

theorem memRead_byte (hl : byteLocation n = some loc) : memRead s (BitVec.ofNat 20 n) 1 = readLocation s loc :=
  memRead_of_idle hb ((locationOf_byte hn).trans hl)

end

/-- An address below 0x100 that is no readable register's is refused, aligned or not. -/
theorem memRead_reserved_register {s : State} (hb : s.status.busy = false) {addr : BitVec 20} (ha : addr.toNat < 0x100)
    (h : addr.toNat ∉ (registerMap s).map Prod.fst) : memRead s addr 4 = none := by
  by_cases h4 : addr.toNat % 4 = 0
  · rw [memRead_of_idle hb (locationOf_eq_register_iff.2 ⟨rfl, rfl, h4, ha⟩)]
    exact readRegister_reserved h
  · exact memRead_of_no_location (wordLocation_misaligned h4)

/-- Settles O52: an idle read returns what its location holds, and the two maps of locations cover the window. -/
theorem idleReadsOfEveryLocation : Obligations.IdleReadsOfEveryLocation := by
  intro s hb
  refine ⟨fun p hp => ?_, fun addr => memRead_reserved_register hb, fun v i hv hi => ?_, fun j hj => ?_, fun j hj => ?_,
    fun j hj => ?_, fun j hj => ?_, fun k j hk hj => ?_, fun r c hr hc => ?_, fun i hi => ?_, fun addr width h1 h4 => ?_,
    fun addr h => memRead_of_no_location (wordLocation_misaligned h),
    fun addr h => memRead_of_no_location (byteLocation_reserved h),
    fun addr h => memRead_of_no_location (wordLocation_reserved h)⟩
  · obtain ⟨h4, hlt⟩ := offset_of_mem_registerMap hp
    rw [memRead_word hb (by omega) (wordLocation_register h4 hlt)]
    exact readRegister_of_mem_registerMap hp
  · rw [memRead_word hb (by omega) (wordLocation_cap hv hi)]
    show some (capWord (capRecord s.config v) i) = _
    split_ifs with hrange
    · rw [capWord_eq_recordWord]
    · rw [capRecord_eq_zero _ hrange, capWord_zero]
  · exact memRead_byte hb (by omega) (byteLocation_cw hj)
  · exact memRead_byte hb (by omega) (byteLocation_out hj)
  · exact memRead_byte hb (by omega) (byteLocation_work hj)
  · exact memRead_byte hb (by omega) (byteLocation_cand hj)
  · exact memRead_byte hb (by omega) (byteLocation_tpl hk hj)
  · exact memRead_word hb (by omega) (wordLocation_grid hr hc)
  · exact memRead_word hb (by omega) (wordLocation_seq hi)
  · exact memRead_of_no_location (by rw [locationOf, if_neg h4, if_neg h1])

/-- Settles O12, by reading each register of the reset state. -/
theorem registersAfterReset : Obligations.RegistersAfterReset := by
  unfold Obligations.RegistersAfterReset
  decide

/-! ### The accepted writes (rules R34, R84, R87) -/

theorem memWrite_of_idle {s : State} {addr : BitVec 20} {width : Nat} (value : Word) {loc : Location}
    (hb : s.status.busy = false) (hl : locationOf addr width = some loc) :
    memWrite s addr width value = writeLocation s value loc := by
  simp [memWrite, hl, hb]

/-- `CMD`, `CFG`, `CWLEN` and the bytes of `CW` are the only writable locations. -/
theorem writeLocation_eq_none {s : State} {value : Word} {loc : Location}
    (hreg : ∀ offset, loc = .register offset → offset ∉ [0x04, 0x0C, 0x10]) (hcw : ∀ j, loc ≠ .cw j) :
    writeLocation s value loc = none := by
  cases loc with
  | register offset =>
    have h := hreg offset rfl
    simp only [List.mem_cons, List.not_mem_nil, or_false, not_or] at h
    simp [writeLocation, h]
  | cw j => exact absurd rfl (hcw j)
  | _ => rfl

theorem memWrite_refused {s : State} {addr : BitVec 20} {width : Nat} (value : Word)
    (hreg : ¬ (width = 4 ∧ addr.toNat ∈ [0x04, 0x0C, 0x10]))
    (hcw : ¬ (width = 1 ∧ 0x1000 ≤ addr.toNat ∧ addr.toNat < 0x2000)) : memWrite s addr width value = none := by
  unfold memWrite
  cases hl : locationOf addr width with
  | none => rfl
  | some loc =>
    have hnone : writeLocation s value loc = none := by
      refine writeLocation_eq_none ?_ ?_
      · rintro offset rfl hmem
        obtain ⟨hw, rfl, -⟩ := locationOf_eq_register_iff.1 hl
        exact hreg ⟨hw, hmem⟩
      · rintro j rfl
        obtain ⟨hw, hlo, hhi, -⟩ := locationOf_eq_cw_iff.1 hl
        exact hcw ⟨hw, hlo, hhi⟩
    simp [hnone]

/-- The low `n` bits of a word, as `&&&` with a mask of `n` ones. -/
theorem toNat_and_ones (w : Word) {n : Nat} (hn : n ≤ 32) : (w &&& BitVec.ofNat 32 (2 ^ n - 1)).toNat = w.toNat % 2 ^ n := by
  have hpow : 2 ^ n ≤ 2 ^ 32 := Nat.pow_le_pow_right (by decide) hn
  rw [BitVec.toNat_and, BitVec.toNat_ofNat, Nat.mod_eq_of_lt (by omega), Nat.and_two_pow_sub_one_eq_mod]

theorem word_ofWord (w : Word) : (Selection.ofWord w).word = w &&& 0xFFFF := by
  have hones : (w &&& 0xFFFF).toNat = w.toNat % 2 ^ 16 := toNat_and_ones w (n := 16) (by decide)
  rw [← BitVec.toNat_inj, Selection.toNat_word, hones]
  simp only [Selection.ofWord, BitVec.extractLsb'_toNat, Nat.shiftRight_eq_div_pow]
  omega

theorem setWidth_extractLsb' (w : Word) {n : Nat} (hn : n ≤ 32) :
    (w.extractLsb' 0 n).setWidth 32 = w &&& BitVec.ofNat 32 (2 ^ n - 1) := by
  have hpow : 2 ^ n ≤ 2 ^ 32 := Nat.pow_le_pow_right (by decide) hn
  have hlt := Nat.mod_lt w.toNat (Nat.two_pow_pos n)
  rw [← BitVec.toNat_inj, toNat_and_ones w hn, BitVec.toNat_setWidth, BitVec.extractLsb'_toNat, Nat.shiftRight_zero,
    Nat.mod_eq_of_lt (by omega)]

/-- Settles O51: each writable location is named by its own access, and a read of what was written finds the bits stored. -/
theorem acceptedWritesAndTheirEffects : Obligations.AcceptedWritesAndTheirEffects := by
  refine ⟨fun s addr width value => memWrite_of_busy, fun s => ?_, fun s addr width value hb =>
    ⟨?_, ?_, ?_, ?_, fun hreg hcw => memWrite_refused value hreg hcw⟩⟩
  · have hl : locationOf 0x04 4 = some (.register 0x04) := by decide
    simp only [memRead, hl]
    split <;> rfl
  · rintro rfl ha
    exact memWrite_of_idle value hb (locationOf_eq_register_iff.2 ⟨rfl, ha, by omega, by omega⟩)
  · rintro rfl ha
    have hl : locationOf addr 4 = some (.register 0x0C) := locationOf_eq_register_iff.2 ⟨rfl, ha, by omega, by omega⟩
    refine ⟨_, memWrite_of_idle value hb hl, rfl, ?_, ?_, ?_, ?_⟩
    · simp [Selection.ofWord, BitVec.extractLsb'_toNat]
    · simp [Selection.ofWord, BitVec.extractLsb'_toNat, Nat.shiftRight_eq_div_pow]
    · simp [Selection.ofWord, BitVec.extractLsb'_toNat, Nat.shiftRight_eq_div_pow]
    · refine (memRead_of_idle ?_ hl).trans (congrArg some (word_ofWord value))
      exact hb
  · rintro rfl ha
    have hl : locationOf addr 4 = some (.register 0x10) := locationOf_eq_register_iff.2 ⟨rfl, ha, by omega, by omega⟩
    refine ⟨_, memWrite_of_idle value hb hl, rfl, ?_, ?_⟩
    · simp [BitVec.extractLsb'_toNat]
    · refine (memRead_of_idle ?_ hl).trans (congrArg some (setWidth_extractLsb' value (n := 13) (by decide)))
      exact hb
  · rintro rfl hlo hhi
    have hl : locationOf addr 1 = some (.cw (addr.toNat - 0x1000)) := locationOf_eq_cw_iff.2 ⟨rfl, hlo, hhi, rfl⟩
    refine ⟨_, memWrite_of_idle value hb hl, rfl, ?_, fun j hj => ?_⟩
    · have hbyte : byteAt (Memory.set s.cw (addr.toNat - 0x1000) (value.extractLsb' 0 8))
          (Config.freeByte s.cwStamp cwBank) (addr.toNat - 0x1000) = value.extractLsb' 0 8 := by
        rw [byteAt_set, if_pos rfl]
      refine (memRead_of_idle ?_ hl).trans (congrArg some ?_)
      · exact hb
      · exact (congrArg byteValue hbyte).trans (setWidth_extractLsb' value (n := 8) (by decide))
    · exact (byteAt_set _ _ _ _ _).trans (if_neg hj.symm)

end Sys2Proof.Machine
end

section
/-! PROOFS. The alignment patterns (rules R125, R126): the loop of `aligncoords()` in closed form, where it ends and where it
does not, and what the boxes draw. -/

namespace Sys2Proof.Machine

open Sys2Proof.Claims

/-! ### The loop (rule R126) -/

theorem alignLoop_of_ge (e : CapEntry) {side a : Nat} (fuel : Nat) (h : side ≤ a + 5) :
    alignLoop e side (fuel + 1) a = some [] := by
  rw [alignLoop, if_neg (by omega)]

theorem alignLoop_of_lt (e : CapEntry) {side a : Nat} (fuel : Nat) (h : a + 5 < side) :
    alignLoop e side (fuel + 1) a =
      (alignLoop e side fuel (if a = 4 then e.apos.toNat else a + e.astride.toNat)).map (a :: ·) := by
  rw [alignLoop, if_pos h]

/-- `a`, `a + d`, `a + 2·d`, … while a box fits. -/
def boxStarts (side d a : Nat) : List Nat :=
  if a + 5 < side then (List.range ((side - 6 - a) / d + 1)).map fun i => a + i * d else []

theorem boxStarts_of_lt {side d a : Nat} (hd : 1 ≤ d) (h : a + 5 < side) :
    boxStarts side d a = a :: boxStarts side d (a + d) := by
  unfold boxStarts
  rw [if_pos h, List.range_succ_eq_map, List.map_cons, List.map_map, Nat.zero_mul, Nat.add_zero]
  congr 1
  split_ifs with hnext
  · have hdiv : (side - 6 - a) / d = (side - 6 - (a + d)) / d + 1 := by
      rw [show side - 6 - a = side - 6 - (a + d) + d by omega, Nat.add_div_right _ hd]
    rw [hdiv]
    refine List.map_congr_left fun i _ => ?_
    simp only [Function.comp_apply, Nat.succ_mul]
    omega
  · rw [Nat.div_eq_of_lt (by omega)]
    rfl

/-- From 5 on the loop adds `astride` until no box fits. -/
theorem alignLoop_eq_boxStarts (e : CapEntry) {side : Nat} (hd : 1 ≤ e.astride.toNat) (fuel : Nat) {a : Nat} (ha : 5 ≤ a)
    (hfuel : side ≤ fuel + a) : alignLoop e side (fuel + 1) a = some (boxStarts side e.astride.toNat a) := by
  induction fuel generalizing a with
  | zero => rw [alignLoop_of_ge e 0 (by omega), boxStarts, if_neg (by omega)]
  | succ fuel ih =>
    by_cases h : a + 5 < side
    · rw [alignLoop_of_lt e _ h, if_neg (by omega), ih (by omega) (by omega), boxStarts_of_lt hd h]
      rfl
    · rw [alignLoop_of_ge e _ (by omega), boxStarts, if_neg h]

/-- `aligncoords()` is the closed form, for a record that ends the loop. -/
theorem alignCoords_eq_alignPositions {e : CapEntry} {side : Nat} (h : alignSound e) (hside : 10 ≤ side) :
    alignCoords e side = some (alignPositions e side) := by
  obtain ⟨hpos, hd⟩ := h
  obtain ⟨fuel, rfl⟩ := Nat.exists_eq_add_of_le' (show 1 ≤ side by omega)
  rw [alignCoords, alignLoop_of_lt e _ (by omega), if_pos rfl, alignLoop_eq_boxStarts e hd fuel hpos (by omega)]
  rfl

/-- Every position leaves room for a box. -/
theorem add_five_lt_of_mem_alignPositions {e : CapEntry} {side a : Nat} (hside : 10 ≤ side)
    (h : a ∈ alignPositions e side) : a + 5 < side := by
  simp only [alignPositions, List.mem_cons] at h
  rcases h with rfl | h
  · omega
  split_ifs at h with hfits
  · simp only [List.mem_map, List.mem_range] at h
    obtain ⟨i, hi, rfl⟩ := h
    have hmul : i * e.astride.toNat ≤ side - 6 - e.apos.toNat :=
      (Nat.mul_le_mul_right _ (Nat.lt_succ_iff.1 hi)).trans (Nat.div_mul_le_self _ _)
    omega
  · cases h

/-- A loop that comes back to where it stands does not end. -/
theorem alignLoop_eq_none {e : CapEntry} {side a : Nat} (h : a + 5 < side)
    (hsame : (if a = 4 then e.apos.toNat else a + e.astride.toNat) = a) (fuel : Nat) : alignLoop e side fuel a = none := by
  induction fuel with
  | zero => rfl
  | succ fuel ih => rw [alignLoop_of_lt e _ h, hsame, ih]; rfl

theorem alignCoords_eq_none {e : CapEntry} {side : Nat} (hside : 10 ≤ side)
    (h : e.apos.toNat = 4 ∨ (e.astride.toNat = 0 ∧ 5 ≤ e.apos.toNat ∧ e.apos.toNat + 5 < side)) :
    alignCoords e side = none := by
  rcases h with h4 | ⟨h0, hpos, hfits⟩
  · exact alignLoop_eq_none (by omega) (by rw [if_pos rfl, h4]) _
  · rw [alignCoords, alignLoop_of_lt e _ (by omega), if_pos rfl,
      alignLoop_eq_none hfits (by rw [if_neg (by omega), h0, Nat.add_zero])]
    rfl

theorem precondition_gpAlign_iff (s : State) :
    precondition .gpAlign s = true ↔ s.status.gridInit = true ∧ s.status.gpstep = 2 := by
  simp [precondition]

/-- Settles O18: from `apos = 4` the loop stays at 4, and with `astride = 0` it stays at `apos`. -/
theorem gpAlignStopsOnEndlessLoop : Obligations.GpAlignStopsOnEndlessLoop := by
  intro s hf hs hg hstep hcap
  have hside := hs.side_bounds.1
  have hready : Ready .gpAlign s := ⟨hf, (precondition_gpAlign_iff s).2 ⟨hg, hstep⟩, rfl, rfl⟩
  have hstuck : gpAlign s = .stuck .alignLoopEndless := by
    unfold gpAlign
    rw [alignCoords_eq_none (by omega) hcap]
  exact (exec_of_ready (i := .gpAlign) nofun hready).trans (congrArg (conclude s) hstuck)

/-! ### The boxes (rule R125) -/

theorem mem_alignBox {r0 c0 : Nat} {p : Paint} :
    p ∈ alignBox r0 c0 ↔
      InBox r0 c0 p.r p.c ∧ p = ⟨p.r, p.c, .alignment, 0, alignColour (p.r - r0) (p.c - c0)⟩ := by
  simp only [alignBox, List.mem_flatMap, List.mem_map, List.mem_range, InBox]
  constructor
  · rintro ⟨dr, hdr, dc, hdc, rfl⟩
    dsimp only
    rw [Nat.add_sub_cancel_left, Nat.add_sub_cancel_left]
    exact ⟨by omega, rfl⟩
  · rintro ⟨hin, hp⟩
    refine ⟨p.r - r0, by omega, p.c - c0, by omega, ?_⟩
    rw [hp]
    simp only [Paint.mk.injEq, and_true]
    omega

theorem skipAlign_eq_false_iff {side r0 c0 : Nat} (h : 21 ≤ side) : skipAlign side r0 c0 = false ↔ ClearOfFinders side r0 c0 := by
  simp only [skipAlign, Bool.or_eq_false_iff, decide_eq_false_iff_not, ClearOfFinders]
  omega

theorem mem_alignPaints {side : Nat} (h : 21 ≤ side) {coords : List Nat} {p : Paint} :
    p ∈ alignPaints side coords ↔
      ∃ r0 ∈ coords, ∃ c0 ∈ coords, ClearOfFinders side r0 c0 ∧ p ∈ alignBox r0 c0 := by
  simp only [alignPaints, List.mem_flatMap]
  constructor
  · rintro ⟨c0, hc0, r0, hr0, hp⟩
    split_ifs at hp with hskip
    · cases hp
    · exact ⟨r0, hr0, c0, hc0, (skipAlign_eq_false_iff h).1 (by simpa using hskip), hp⟩
  · rintro ⟨r0, hr0, c0, hc0, hclear, hp⟩
    exact ⟨c0, hc0, r0, hr0, by rwa [(skipAlign_eq_false_iff h).2 hclear]⟩

theorem alignPaints_column_lt {e : CapEntry} {side : Nat} (h : 21 ≤ side) {p : Paint}
    (hp : p ∈ alignPaints side (alignPositions e side)) : p.c < side := by
  obtain ⟨r0, -, c0, hc0, -, hp⟩ := (mem_alignPaints h).1 hp
  obtain ⟨hin, -⟩ := mem_alignBox.1 hp
  have hbox := add_five_lt_of_mem_alignPositions (by omega) hc0
  omega

/-- The colour of a box goes by the distance from its centre: ring 1 is white. -/
theorem alignColour_eq_ring {r0 c0 r c : Nat} (h : InBox r0 c0 r c) :
    alignColour (r - r0) (c - c0) = (ring ((r0 : Int) + 2, (c0 : Int) + 2) r c != 1) := by
  rw [Bool.eq_iff_iff]
  simp only [alignColour, ring, Bool.or_eq_true, Bool.and_eq_true, beq_iff_eq, bne_iff_ne, InBox] at h ⊢
  omega

/-- The paints of `GP.ALIGN` for a record that ends the loop: those of the boxes of `BoxAt`. -/
theorem mem_alignPaints_iff_boxAt {s : State} (hs : PlanShape s) {p : Paint} :
    p ∈ alignPaints s.side (alignPositions s.capEntry s.side) ↔
      ∃ r0 c0, BoxAt s r0 c0 ∧ InBox r0 c0 p.r p.c
        ∧ p = ⟨p.r, p.c, .alignment, 0, ring ((r0 : Int) + 2, (c0 : Int) + 2) p.r p.c != 1⟩ := by
  rw [mem_alignPaints hs.side_bounds.1]
  constructor
  · rintro ⟨r0, hr0, c0, hc0, hclear, hp⟩
    obtain ⟨hin, hp⟩ := mem_alignBox.1 hp
    exact ⟨r0, c0, ⟨hr0, hc0, hclear⟩, hin, by rwa [alignColour_eq_ring hin] at hp⟩
  · rintro ⟨r0, c0, ⟨hr0, hc0, hclear⟩, hin, hp⟩
    exact ⟨r0, hr0, c0, hc0, hclear, mem_alignBox.2 ⟨hin, by rwa [alignColour_eq_ring hin]⟩⟩

section
variable {s : State} (hs : PlanShape s)
include hs

theorem PlanShape.column_lt_of_inBox {r0 c0 r c : Nat} (hbox : BoxAt s r0 c0) (hin : InBox r0 c0 r c) : c < s.side := by
  obtain ⟨-, hc0, -⟩ := hbox
  have hside := hs.side_bounds.1
  have := add_five_lt_of_mem_alignPositions (by omega) hc0
  omega

/-- Every module of a box is painted. -/
theorem PlanShape.exists_alignPaint {r0 c0 r c : Nat} (hbox : BoxAt s r0 c0) (hin : InBox r0 c0 r c) :
    ∃ p ∈ alignPaints s.side (alignPositions s.capEntry s.side), p.r = r ∧ p.c = c :=
  ⟨⟨r, c, .alignment, 0, ring ((r0 : Int) + 2, (c0 : Int) + 2) r c != 1⟩,
    (mem_alignPaints_iff_boxAt hs).2 ⟨r0, c0, hbox, hin, rfl⟩, rfl, rfl⟩

theorem PlanShape.cell_alignPaints_of_inBox {r c : Nat} (hin : ∃ r0 c0, BoxAt s r0 c0 ∧ InBox r0 c0 r c) :
    (s.paintAll (alignPaints s.side (alignPositions s.capEntry s.side))).cell r c = ⟨.alignment, 0⟩ := by
  obtain ⟨r0, c0, hbox, hin⟩ := hin
  obtain ⟨q, hq, rfl, rfl⟩ := hs.exists_alignPaint hbox hin
  refine s.cell_paintAll_of_hit _ q.r q.c _ ⟨q, hq, rfl⟩ fun p hp _ => ?_
  obtain ⟨r1, c1, -, -, hp⟩ := (mem_alignPaints_iff_boxAt hs).1 hp
  rw [hp]
  rfl

theorem PlanShape.cell_alignPaints_of_not_inBox {r c : Nat} (hc : c < 256)
    (hout : ¬ ∃ r0 c0, BoxAt s r0 c0 ∧ InBox r0 c0 r c) :
    (s.paintAll (alignPaints s.side (alignPositions s.capEntry s.side))).cell r c = s.cell r c := by
  have hside := hs.side_bounds.2
  refine s.cell_paintAll_of_not_hit _ r c fun p hp he => hout ?_
  have hlt := alignPaints_column_lt hs.side_bounds.1 hp
  obtain ⟨rfl, rfl⟩ := (cellIndex_inj (by omega) hc).1 he
  obtain ⟨r0, c0, hbox, hin, -⟩ := (mem_alignPaints_iff_boxAt hs).1 hp
  exact ⟨r0, c0, hbox, hin⟩

theorem PlanShape.tplPixel_alignPaints_of_inBox {k r c r0 c0 : Nat} (hk : k < 8) (hkn : k < s.ncopy) (hbox : BoxAt s r0 c0)
    (hin : InBox r0 c0 r c) (honly : ∀ r1 c1, BoxAt s r1 c1 → InBox r1 c1 r c → r1 = r0 ∧ c1 = c0) :
    (s.paintAll (alignPaints s.side (alignPositions s.capEntry s.side))).tplPixel k r c
      = (ring ((r0 : Int) + 2, (c0 : Int) + 2) r c != 1) := by
  have hstride := hs.side_le_stride
  refine s.tplPixel_paintAll_of_hit _ _ hk hkn ((hs.column_lt_of_inBox hbox hin).trans_le hstride)
    (fun p hp => (alignPaints_column_lt hs.side_bounds.1 hp).trans_le hstride)
    (hs.exists_alignPaint hbox hin) ?_
  rintro p hp ⟨rfl, rfl⟩
  obtain ⟨r1, c1, hbox1, hin1, hp⟩ := (mem_alignPaints_iff_boxAt hs).1 hp
  obtain ⟨rfl, rfl⟩ := honly r1 c1 hbox1 hin1
  rw [hp]

theorem PlanShape.tplPixel_alignPaints_of_not_inBox {k r c : Nat} (hk : k < 8) (hc : c < 8 * s.stride)
    (hout : ¬ (k < s.ncopy ∧ ∃ r0 c0, BoxAt s r0 c0 ∧ InBox r0 c0 r c)) :
    (s.paintAll (alignPaints s.side (alignPositions s.capEntry s.side))).tplPixel k r c = s.tplPixel k r c := by
  refine s.tplPixel_paintAll_of_not_hit _ hk hc
    (fun p hp => (alignPaints_column_lt hs.side_bounds.1 hp).trans_le hs.side_le_stride)
    ((le_or_gt s.ncopy k).imp id fun hkn p hp => ?_)
  rintro ⟨rfl, rfl⟩
  obtain ⟨r0, c0, hbox, hin, -⟩ := (mem_alignPaints_iff_boxAt hs).1 hp
  exact hout ⟨hkn, r0, c0, hbox, hin⟩

end

/-- `GP.ALIGN` for a record that ends the loop. -/
theorem gpAlign_of_alignSound {s : State} (hs : PlanShape s) (h : alignSound s.capEntry) :
    gpAlign s = .done (gridStep (alignPaints s.side (alignPositions s.capEntry s.side)) 3 s) := by
  have hside := hs.side_bounds.1
  unfold gpAlign
  rw [alignCoords_eq_alignPositions h (by omega)]

/-- Settles O17: the loop runs through the positions, and every paint is one of a box. -/
theorem gpAlignDrawsBoxes : Obligations.GpAlignDrawsBoxes := by
  intro s hf hs hcap
  refine ⟨fun hg hstep => ?_, fun hbad =>
    exec_badState (i := .gpAlign) nofun hf ((precondition_gpAlign_iff s).not.2 hbad)⟩
  have hready : Ready .gpAlign s := ⟨hf, (precondition_gpAlign_iff s).2 ⟨hg, hstep⟩, rfl, rfl⟩
  refine ⟨_, exec_done (i := .gpAlign) nofun hready (gpAlign_of_alignSound hs hcap), ?_,
    fun r c _ hin => hs.cell_alignPaints_of_inBox hin, fun r c hc hout => hs.cell_alignPaints_of_not_inBox hc hout,
    fun k r c r0 c0 hk hkn hbox hin honly => hs.tplPixel_alignPaints_of_inBox hk hkn hbox hin honly,
    fun k r c hk hc hout => hs.tplPixel_alignPaints_of_not_inBox hk hc hout⟩
  rw [gridStep_sameButGridStep]
  rfl

end Sys2Proof.Machine
end

section
/-! PROOFS. The offsets of a finished grid (rules R46, R146): `SEQ` numbers the bits of the stream, each once, and the sweep
lays it out over the free cells. -/

namespace Sys2Proof.Machine

open Sys2Proof.Claims

/-! ### Every byte of the stream has a place (rules R142, R143) -/

theorem mul_add_lt_mul {m n i b : Nat} (hi : i < m) (hb : b < n) : i * n + b < n * m := by
  have := Nat.mul_le_mul_right n (Nat.succ_le_of_lt hi)
  rw [Nat.succ_mul, Nat.mul_comm m] at this
  omega

/-- Data byte `j` of the stream is byte `i` of a block `b`, and has its place among the data bytes. -/
theorem exists_dataByte {p : PlanRegs} (he : p.extra.toNat < p.nb.toNat)
    (hd : p.nb.toNat * p.nde.toNat + p.extra.toNat = p.databytes.toNat) {j : Nat} (hj : j < p.databytes.toNat) :
    ∃ b < p.nb.toNat, ∃ i < dataLen p b, dataStart p b + i = j ∧ dataPlace p i b < p.databytes.toNat := by
  have hplace : ∀ b < p.nb.toNat, ∀ i < dataLen p b, dataPlace p i b < p.databytes.toNat := by
    intro b hb i hi
    unfold dataLen at hi
    unfold dataPlace
    rw [← hd]
    by_cases hfull : i < p.nde.toNat
    · rw [if_pos hfull]
      exact (mul_add_lt_mul hfull hb).trans_le (Nat.le_add_right _ _)
    · rw [if_neg hfull, Nat.mul_comm p.nde.toNat]
      split_ifs at hi <;> omega
  suffices h : ∃ b < p.nb.toNat, ∃ i < dataLen p b, dataStart p b + i = j by
    obtain ⟨b, hb, i, hi, hj⟩ := h
    exact ⟨b, hb, i, hi, hj, hplace b hb i hi⟩
  obtain ⟨m, hm⟩ : ∃ m, p.nb.toNat = m + p.extra.toNat := ⟨p.nb.toNat - p.extra.toNat, by omega⟩
  have hshort : p.nb.toNat - p.extra.toNat = m := by omega
  unfold dataLen dataStart
  rw [hshort]
  rw [hm, Nat.add_mul] at hd
  rw [hm]
  generalize p.nde.toNat = d at *
  generalize p.extra.toNat = x at *
  by_cases hj' : j < m * d
  · have hb := Nat.div_lt_of_lt_mul (Nat.mul_comm m d ▸ hj')
    have hd0 : 0 < d := Nat.pos_of_ne_zero (by rintro rfl; omega)
    have hi := Nat.mod_lt j hd0
    have hdiv := Nat.div_add_mod j d
    rw [Nat.mul_comm] at hdiv
    exact ⟨j / d, by omega, j % d, by omega, by omega⟩
  · have hrest : j - m * d < (d + 1) * x := by rw [Nat.succ_mul, Nat.mul_comm d]; omega
    have hb := Nat.div_lt_of_lt_mul hrest
    have hi := Nat.mod_lt (j - m * d) (Nat.succ_pos d)
    have hdiv := Nat.div_add_mod (j - m * d) (d + 1)
    generalize (j - m * d) / (d + 1) = q at *
    generalize (j - m * d) % (d + 1) = i at *
    refine ⟨m + q, by omega, i, by rw [if_pos (by omega)]; omega, ?_⟩
    rw [Nat.add_mul, Nat.add_sub_cancel_left]
    rw [Nat.succ_mul, Nat.mul_comm d] at hdiv
    omega

/-- Check byte `j` of the stream is byte `i` of a block `b`, and has its place among the check bytes. -/
theorem exists_checkByte {p : PlanRegs} (hc : p.nb.toNat * p.ne.toNat = p.checkbytes.toNat) {j : Nat}
    (hj : j < p.checkbytes.toNat) :
    ∃ b < p.nb.toNat, ∃ i < p.ne.toNat, b * p.ne.toNat + i = j ∧ i * p.nb.toNat + b < p.checkbytes.toNat := by
  rw [← hc] at hj ⊢
  have hb := Nat.div_lt_of_lt_mul (Nat.mul_comm p.nb.toNat _ ▸ hj)
  have hi := Nat.mod_lt j (Nat.pos_of_ne_zero (n := p.ne.toNat) fun h0 => by rw [h0] at hj; omega)
  have hdiv := Nat.div_add_mod j p.ne.toNat
  rw [Nat.mul_comm] at hdiv
  exact ⟨_, hb, _, hi, hdiv, mul_add_lt_mul hi hb⟩

/-! ### `SEQ` as a numbering (rule R143) -/

/-- The first `bits` entries of `SEQ` are the bits of the stream, each once, and the seven after them the filler, in order;
all have a role that is masked. -/
structure Numbers (s : State) (bits : Nat) : Prop where
  stream : ∀ o < bits, ∃ p < bits, Role.masked (s.entry p).role = true ∧ (s.entry p).off.toNat = o
  filler : ∀ j < 7, Role.masked (s.entry (bits + j)).role = true ∧ (s.entry (bits + j)).off.toNat = bits + j

/-- A map of the numbers below `n` that reaches each of them is one-to-one, and stays below `n`. -/
theorem lt_and_injective_of_surjective {n : Nat} {f : Nat → Nat} (h : ∀ o < n, ∃ p < n, f p = o) :
    (∀ p < n, f p < n) ∧ ∀ p < n, ∀ q < n, f p = f q → p = q := by
  obtain ⟨hnodup, hmem⟩ := nodup_and_mem_of_covers (l := (List.range n).map f) (S := Finset.range n) (by simp) fun o ho => by
    obtain ⟨p, hp, rfl⟩ := h o (Finset.mem_range.1 ho)
    simpa using ⟨p, hp, rfl⟩
  refine ⟨fun p hp => ?_, fun p hp q hq hpq => ?_⟩
  · exact Finset.mem_range.1 (hmem (f p) (List.mem_map_of_mem (List.mem_range.2 hp)))
  · exact List.inj_on_of_nodup_map hnodup (List.mem_range.2 hp) (List.mem_range.2 hq) hpq

section
variable {s : State} {bits n : Nat} (h : Numbers s bits) (hlo : bits ≤ n) (hhi : n ≤ bits + 7)
include h hlo hhi

/-- The first `n` entries of `SEQ`, when they hold the stream, have each offset below `n`. -/
theorem Numbers.exists_entry {o : Nat} (ho : o < n) :
    ∃ p < n, Role.masked (s.entry p).role = true ∧ (s.entry p).off.toNat = o := by
  by_cases hstream : o < bits
  · obtain ⟨p, hp, hentry⟩ := h.stream o hstream
    exact ⟨p, by omega, hentry⟩
  · obtain ⟨j, rfl⟩ := Nat.exists_eq_add_of_le (Nat.not_lt.1 hstream)
    exact ⟨bits + j, ho, h.filler j (by omega)⟩

theorem Numbers.off_lt {p : Nat} (hp : p < n) : (s.entry p).off.toNat < n :=
  (lt_and_injective_of_surjective fun _ ho => (h.exists_entry hlo hhi ho).imp fun _ hp => ⟨hp.1, hp.2.2⟩).1 p hp

theorem Numbers.off_injective {p q : Nat} (hp : p < n) (hq : q < n) (hpq : (s.entry p).off.toNat = (s.entry q).off.toNat) :
    p = q :=
  (lt_and_injective_of_surjective fun _ ho => (h.exists_entry hlo hhi ho).imp fun _ hp => ⟨hp.1, hp.2.2⟩).2 p hp q hq hpq

theorem Numbers.masked {p : Nat} (hp : p < n) : Role.masked (s.entry p).role = true := by
  obtain ⟨q, hq, hmasked, hoff⟩ := h.exists_entry hlo hhi (h.off_lt hlo hhi hp)
  rwa [h.off_injective hlo hhi hp hq hoff.symm]

end

/-- `BL.ILV` numbers the stream of its blocks. -/
theorem blIlv_numbers {s : State} (hready : Ready .blIlv s) (hblock : BlockShape s) :
    Numbers (blIlv s) (8 * (s.plan.databytes.toNat + s.plan.checkbytes.toNat)) := by
  obtain ⟨hf, hpre, -, -⟩ := id hready
  obtain ⟨hparam, hl, hp⟩ := (precondition_blIlv_iff s).1 hpre
  obtain ⟨t, ht, -, -, hdata, hcheck, hextra, -⟩ := (blIlvInterleaves s hf).1 hparam hl hp hblock
  obtain rfl : (blIlv s).finish = t := by
    have hdone := exec_done (i := .blIlv) nofun hready rfl
    exact Host.Outcome.next.inj (hdone.symm.trans ht)
  have hbytes : s.plan.databytes.toNat + s.plan.checkbytes.toNat < 4096 := hblock.total_eq ▸ s.capEntry.bytes.isLt
  have hoff : ∀ n < 2 ^ 15, (BitVec.ofNat 15 n).toNat = n := fun n hn => by
    rw [BitVec.toNat_ofNat, Nat.mod_eq_of_lt hn]
  refine ⟨fun o ho => ?_, fun j hj => ?_⟩
  · by_cases hbyte : o / 8 < s.plan.databytes.toNat
    · obtain ⟨b, hb, i, hi, hj, hplace⟩ := exists_dataByte hblock.extra_lt hblock.data_eq hbyte
      have hentry : (blIlv s).entry _ = _ := hdata b i (o % 8) hb hi (by omega)
      refine ⟨8 * dataPlace s.plan i b + o % 8, by omega, ?_⟩
      rw [hentry, hj, hoff _ (by omega)]
      exact ⟨rfl, by omega⟩
    · obtain ⟨b, hb, i, hi, hj, hplace⟩ := exists_checkByte hblock.check_eq
        (show o / 8 - s.plan.databytes.toNat < s.plan.checkbytes.toNat by omega)
      have hentry : (blIlv s).entry _ = _ := hcheck b i (o % 8) hb hi (by omega)
      refine ⟨8 * (s.plan.databytes.toNat + i * s.plan.nb.toNat + b) + o % 8, by omega, ?_⟩
      rw [hentry, Nat.add_assoc s.plan.databytes.toNat, hj, hoff _ (by omega)]
      exact ⟨rfl, by omega⟩
  · have hentry : (blIlv s).entry _ = _ := hextra j hj
    rw [hentry, hoff _ (by omega)]
    exact ⟨rfl, rfl⟩

/-! ### The filled grid (rules R145, R146) -/

/-- `t` is `s` with its free cells filled from `SEQ`, in the order of the sweep, as `BL.SWEEP` leaves it. -/
structure Filled (s t : State) : Prop where
  side    : t.side = s.side
  freecnt : t.plan.freecnt.toNat = (freeInOrder s).length
  stream  : 8 * (s.plan.databytes.toNat + s.plan.checkbytes.toNat) ≤ (freeInOrder s).length
  seqlen  : (freeInOrder s).length ≤ s.plan.seqlen.toNat
  given   : ∀ p r c, (freeInOrder s)[p]? = some (r, c) → t.cell r c = s.entry p
  kept    : ∀ r c, c < 256 → (r, c) ∉ freeInOrder s → t.cell r c = s.cell r c

/-- A sweep that completes has filled the grid. -/
theorem blSweep_filled {s t : State} (hs : PlanShape s) (h : blSweep s = .done t) : Filled s t := by
  have hengine := (blSweep_keeps h).engineStamp
  obtain ⟨grid, p, hloop, hstream, rfl⟩ := blSweep_done h
  obtain ⟨hfills, hp, hle⟩ := sweepLoop_fills hs.sweepOrder_nodup hloop
  have hcount : p = (freeInOrder s).length := hp.trans (Nat.zero_add _)
  have hseqlen := hle (Nat.zero_le _)
  have hbound := s.plan.seqlen.isLt
  have hcol : ∀ v ∈ freeInOrder s, v.2 < 256 := fun v hv => hs.sweepOrder_column_lt (List.mem_of_mem_filter hv)
  subst hcount
  exact ⟨rfl, by simp only [BitVec.toNat_ofNat]; omega, hstream, hseqlen, fun p r c hp => Fills.cell_given hfills hp,
    fun r c hc hout => Fills.cell_kept hfills hengine hcol hc hout⟩

theorem Filled.finish {s t : State} (h : Filled s t) : Filled s t.finish := { h with }

/-- Settles O28: the masked cells of the finished grid are the cells of the sweep's list, and `SEQ` numbers it. -/
theorem finishedGridHasEachOffsetOnce : Obligations.FinishedGridHasEachOffsetOnce := by
  rintro s t hs hblock hfresh ⟨u, hu, huok, t', ht, htok, rfl⟩
  obtain ⟨hready, v, hv, rfl⟩ := exec_ok (i := .blIlv) nofun hu huok
  cases hv
  have hshape : PlanShape (blIlv s).finish := ⟨hs.version_lo, hs.version_hi, hs.side_eq, hs.stride_eq, hs.ncopy_eq⟩
  obtain ⟨-, w, hw, hend⟩ := exec_ok (i := .blSweep) nofun ht htok
  have hfilled : Filled (blIlv s).finish t := hend ▸ (blSweep_filled hshape hw).finish
  have hnumbers := blIlv_numbers hready hblock
  have hlo := hfilled.stream
  have hhi : (freeInOrder (blIlv s).finish).length ≤ 8 * (s.plan.databytes.toNat + s.plan.checkbytes.toNat) + 7 :=
    hfilled.seqlen.trans hblock.blIlv_seqlen.le
  have hside := hs.side_bounds.2
  have hswept : ∀ r c, r < t.side → c < t.side → Role.masked (t.cell r c).role = true →
      ∃ p < (freeInOrder (blIlv s).finish).length, (freeInOrder (blIlv s).finish)[p]? = some (r, c)
        ∧ t.cell r c = (blIlv s).entry p := by
    intro r c hr hc hmasked
    rw [hfilled.side] at hr hc
    have hc' : c < s.side := hc
    have hmem : (r, c) ∈ freeInOrder (blIlv s).finish := by
      by_contra hout
      rw [hfilled.kept r c (by omega) hout] at hmasked
      exact absurd (hmasked.symm.trans (hfresh r c hr hc)) (by decide)
    obtain ⟨p, hp⟩ := List.mem_iff_getElem?.1 hmem
    exact ⟨p, (List.getElem?_eq_some_iff.1 hp).1, hp, hfilled.given p r c hp⟩
  rw [hfilled.freecnt]
  refine ⟨fun o ho => ?_, fun r c hr hc hmasked => ?_, fun r c r' c' hr hc hr' hc' hmasked hmasked' hoff => ?_⟩
  · obtain ⟨p, hp, hmasked, hoff⟩ := hnumbers.exists_entry hlo hhi ho
    obtain ⟨⟨r, c⟩, hrc⟩ : ∃ v, (freeInOrder (blIlv s).finish)[p]? = some v := ⟨_, List.getElem?_eq_getElem hp⟩
    have hmem : (r, c) ∈ sweepOrder s.side := List.mem_of_mem_filter (List.mem_of_getElem? hrc)
    rw [hs.side_eq_version] at hmem
    obtain ⟨hr, hc⟩ := (sweepOrder_nodup_and_bounds hs.version_lo hs.version_hi).2 _ hmem
    rw [← hs.side_eq_version] at hr hc
    refine ⟨r, c, by rw [hfilled.side]; exact hr, by rw [hfilled.side]; exact hc, ?_⟩
    rw [hfilled.given p r c hrc]
    exact ⟨hmasked, hoff⟩
  · obtain ⟨p, hp, -, hentry⟩ := hswept r c hr hc hmasked
    rw [hentry]
    exact hnumbers.off_lt hlo hhi hp
  · obtain ⟨p, hp, hrc, hentry⟩ := hswept r c hr hc hmasked
    obtain ⟨q, hq, hrc', hentry'⟩ := hswept r' c' hr' hc' hmasked'
    rw [hentry, hentry'] at hoff
    obtain rfl := hnumbers.off_injective hlo hhi hp hq (congrArg BitVec.toNat hoff)
    simpa using hrc.symm.trans hrc'

end Sys2Proof.Machine
end

section
/-! PROOFS. The penalty as a function of the modules inside the side (rule R180), and the selection of the candidate of least
penalty (rule R194). -/

namespace Sys2Proof.Machine

open Sys2Proof.Claims

/-! ### The modules inside the side (rule R180) -/

/-- Two bitmaps agree inside the side. -/
def AgreeInside (side : Nat) (b b' : Modules) : Prop := ∀ r c, r < side → c < side → b r c = b' r c

section
variable {side : Nat} {b b' : Modules} (h : AgreeInside side b b')
include h

theorem AgreeInside.rowLine_eq {r : Nat} (hr : r < side) : rowLine side b r = rowLine side b' r :=
  List.map_congr_left fun c hc => h r c hr (List.mem_range.1 hc)

theorem AgreeInside.columnLine_eq {c : Nat} (hc : c < side) : columnLine side b c = columnLine side b' c :=
  List.map_congr_left fun r hr => h r c (List.mem_range.1 hr) hc

theorem AgreeInside.lines_eq : lines side b = lines side b' := by
  unfold lines
  rw [List.map_congr_left fun r hr => h.rowLine_eq (List.mem_range.1 hr),
    List.map_congr_left fun c hc => h.columnLine_eq (List.mem_range.1 hc)]

theorem AgreeInside.runTerm_eq : runTerm side b = runTerm side b' := by
  unfold runTerm
  rw [h.lines_eq]

theorem AgreeInside.findTerm_eq (edge : FinderEdge) : findTerm edge side b = findTerm edge side b' := by
  unfold findTerm
  rw [h.lines_eq]

theorem AgreeInside.boxTerm_eq : boxTerm side b = boxTerm side b' := by
  have hinterior : ∀ x ∈ interior side, x < side ∧ x - 1 < side := by
    intro x hx
    simp only [interior, List.mem_map, List.mem_range] at hx
    obtain ⟨i, hi, rfl⟩ := hx
    omega
  unfold boxTerm
  congr 1
  refine List.map_congr_left fun r hr => congrArg List.sum (List.map_congr_left fun c hc => ?_)
  obtain ⟨hr, hr'⟩ := hinterior r hr
  obtain ⟨hc, hc'⟩ := hinterior c hc
  unfold isBox
  rw [h r c hr hc, h (r - 1) c hr' hc, h r (c - 1) hr hc', h (r - 1) (c - 1) hr' hc']

theorem AgreeInside.balTerm_eq : balTerm side b = balTerm side b' := by
  unfold balTerm blackCount
  rw [List.map_congr_left fun r hr => by rw [h.rowLine_eq (List.mem_range.1 hr)]]

theorem AgreeInside.penalty_eq (edge : FinderEdge) : penalty edge side b = penalty edge side b' := by
  unfold penalty
  rw [h.runTerm_eq, h.boxTerm_eq, h.findTerm_eq, h.balTerm_eq]

end

/-! ### Black and white swapped (rule R180) -/

theorem lines_not (side : Nat) (b : Modules) : lines side (fun r c => !b r c) = (lines side b).map (List.map not) := by
  have hrow : rowLine side (fun r c => !b r c) = List.map not ∘ rowLine side b := funext fun r => by
    simp only [rowLine, List.map_map, Function.comp_def]
  have hcolumn : columnLine side (fun r c => !b r c) = List.map not ∘ columnLine side b := funext fun c => by
    simp only [columnLine, List.map_map, Function.comp_def]
  rw [lines, lines, List.map_append, List.map_map, List.map_map, hrow, hcolumn]

theorem runFrom_not (colour : Bool) (n : Nat) (line : List Bool) :
    runFrom (!colour) n (line.map not) = runFrom colour n line := by
  induction line generalizing colour n with
  | nil => rfl
  | cons x xs ih => simp only [List.map_cons, runFrom, ih, Bool.not_inj_iff]

theorem lineRun_not (line : List Bool) : lineRun (line.map not) = lineRun line := by
  cases line with
  | nil => rfl
  | cons x xs => exact runFrom_not x 1 xs

theorem runTerm_not (side : Nat) (b : Modules) : runTerm side (fun r c => !b r c) = runTerm side b := by
  unfold runTerm
  rw [lines_not, List.map_map]
  exact congrArg List.sum (List.map_congr_left fun line _ => lineRun_not line)

theorem isBox_not (b : Modules) (r c : Nat) : isBox (fun r c => !b r c) r c = isBox b r c := by
  have hswap : ∀ x y : Bool, ((!x) == !y) = (x == y) := by decide
  simp only [isBox, hswap]

theorem boxTerm_not (side : Nat) (b : Modules) : boxTerm side (fun r c => !b r c) = boxTerm side b := by
  simp only [boxTerm, isBox_not]

/-- Every module is black or white. -/
theorem blackCount_add_blackCount_not (side : Nat) (b : Modules) :
    blackCount side b + blackCount side (fun r c => !b r c) = side * side := by
  have hcells : (cells side).card = side * side := by rw [cells, Finset.card_product, Finset.card_range]
  rw [blackCount_eq_card, blackCount_eq_card, ← hcells]
  simp only [Bool.not_eq_true', ← Bool.not_eq_true]
  exact Finset.card_filter_add_card_filter_not _

/-- The balance term takes the lesser of the two colours. -/
theorem balTerm_not (side : Nat) (b : Modules) : balTerm side (fun r c => !b r c) = balTerm side b := by
  have hcount := blackCount_add_blackCount_not side b
  have hmin : min (blackCount side fun r c => !b r c) (side * side - blackCount side fun r c => !b r c)
      = min (blackCount side b) (side * side - blackCount side b) := by omega
  unfold balTerm balanceOf
  rw [hmin]

/-- A bitmap with a finder's line at the start of its first row, a `P1` and a `P2`: swapped, it has neither. -/
def onePattern : Modules := fun r c => r == 0 && patternP1.getD c false

theorem findTerm_onePattern : findTerm .core9 21 onePattern = 80 := by decide +kernel

theorem findTerm_not_onePattern : findTerm .core9 21 (fun r c => !onePattern r c) = 0 := by decide +kernel

/-- Settles O40: the terms read the modules through the lines and the blocks inside the side; the finder patterns have black
where their swaps have white. -/
theorem penaltyDependsOnModulesAlone : Obligations.PenaltyDependsOnModulesAlone := by
  refine ⟨fun edge side b b' h => AgreeInside.penalty_eq h edge, fun edge side b => rfl,
    fun side b => ⟨runTerm_not side b, boxTerm_not side b, balTerm_not side b⟩, onePattern, ?_⟩
  rw [findTerm_onePattern, findTerm_not_onePattern]
  decide

/-! ### `EN.SELECT` with one template (rule R194) -/

theorem State.copyWork_outByte (s : State) (j : Nat) :
    s.copyWork.outByte j = if j < s.stride * s.side then s.workByte j else s.outByte j :=
  byteAt_writeList_range s.out _ _ _ j

theorem exec_enSelect {s : State} (hf : s.status.fatal = false) (hwork : s.status.workOk = true) :
    exec .enSelect s = .next (enSelect s).finish :=
  exec_done (i := .enSelect) nofun ⟨hf, hwork, rfl, rfl⟩ rfl

/-- Settles O44: the effect writes `OUT` from the list of the bytes of `WORK`. -/
theorem enSelectReturnsTheOnlyBitmap : Obligations.EnSelectReturnsTheOnlyBitmap := by
  intro s hf
  refine ⟨fun hwork hn => ?_, fun hbad => exec_badState (i := .enSelect) nofun hf (by simp [precondition, hbad])⟩
  have hselect : enSelect s = s.copyWork.latchCode.staleTotal := if_pos hn
  refine ⟨_, exec_enSelect hf hwork, ?_, ?_⟩ <;> rw [hselect]
  · rfl
  · exact s.copyWork_outByte

/-! ### One candidate scored (rules R179, R192) -/

theorem SameButSearch.trans {s t u : State} (h : SameButSearch s t) (h' : SameButSearch t u) : SameButSearch s u := by
  unfold SameButSearch at *
  rw [h', h]

theorem State.scoreCandidate_sameButSearch (s : State) (k : Nat) : SameButSearch s (s.scoreCandidate k) := rfl

theorem State.copyCand_sameButSearch (s : State) : SameButSearch s s.copyCand := rfl

/-- What the search only reads. -/
theorem SameButSearch.reads {s u : State} (h : SameButSearch s u) :
    u.side = s.side ∧ u.stride = s.stride ∧ u.config = s.config ∧ u.workByte = s.workByte
      ∧ (∀ k, u.tplByte k = s.tplByte k) := by
  rw [h]
  exact ⟨rfl, rfl, rfl, rfl, fun _ => rfl⟩

/-- `CAND` and the penalty registers of `u` are those of candidate `k` of the plan in `s`, scored. -/
structure CandidateScored (s : State) (k : Nat) (u : State) : Prop where
  candmask : u.pen.candmask = BitVec.ofNat 3 k
  run      : u.pen.run.toNat = runTerm s.side (candidate s k)
  box      : u.pen.box.toNat = boxTerm s.side (candidate s k)
  find     : u.pen.find.toNat = findTerm s.config.finderEdge s.side (candidate s k)
  bal      : u.pen.bal.toNat = balTerm s.side (candidate s k)
  total    : u.pen.total.toNat = penalty s.config.finderEdge s.side (candidate s k)
  total_eq : u.pen.total = u.penm k
  cand     : ∀ j, u.candByte j = if j < s.stride * s.side then s.workByte j ^^^ s.tplByte k j else s.candByte j

/-- The modules `EN.CAND k` makes are those of candidate `k`. -/
theorem candPixel_enCand {s u : State} (hs : PlanShape s) (h : SameButSearch s u) (k : Nat) :
    AgreeInside s.side (enCand k u).candPixel (candidate s k) := by
  intro r c hr hc
  obtain ⟨hside, hstride, -, hwork, htpl⟩ := h.reads
  have hlt := pixelByte_lt (stride := s.stride) hr (hc.trans_le hs.side_le_stride)
  have hbyte : (enCand k u).candByte (pixelByte s.stride r c)
      = (fun j => s.workByte j ^^^ s.tplByte k j) (pixelByte s.stride r c) := by
    rw [enCand_candByte, hside, hstride, if_pos hlt, hwork, htpl]
  have hpixel : (enCand k u).candPixel r c = pixel (enCand k u).candByte s.stride r c := by
    rw [← hstride]; rfl
  rw [hpixel, pixel_congr (g := fun j => s.workByte j ^^^ s.tplByte k j) hbyte, pixel_xor]
  rfl

theorem toNat_ofNat_of_lt {n : Nat} (h : n < 2 ^ 32) : (BitVec.ofNat 32 n).toNat = n := by
  rw [BitVec.toNat_ofNat, Nat.mod_eq_of_lt h]

theorem State.penm_scoreCandidate (s : State) {k : Nat} (hk : k < 8) (j : Nat) :
    (s.scoreCandidate k).penm j = if j = k then (s.scoreCandidate k).pen.total else s.penm j := by
  have hpenm : (s.scoreCandidate k).pen.penm = s.pen.penm.setIfInBounds k (s.scoreCandidate k).pen.total := rfl
  unfold State.penm
  rw [hpenm, Vector.getElem?_setIfInBounds]
  by_cases h : k = j
  · subst h; simp [hk]
  · simp [h, Ne.symm h]

theorem candidateScored_scoreCandidate {s u : State} (hs : PlanShape s) (h : SameButSearch s u) {k : Nat} (hk : k < 8)
    (hrest : ∀ j, s.stride * s.side ≤ j → u.candByte j = s.candByte j) : CandidateScored s k (u.scoreCandidate k) := by
  obtain ⟨hside, hstride, hconfig, hwork, htpl⟩ := h.reads
  have hmodules := candPixel_enCand hs h k
  have hbound := hs.side_bounds.2
  have hrun := runTerm_le (candidate s k) hbound
  have hbox := boxTerm_le (candidate s k) hbound
  have hfind := findTerm_le (candidate s k) hbound s.config.finderEdge
  have hbal := balTerm_le s.side (candidate s k)
  have hpen : (u.scoreCandidate k).pen = { (u.scoreCandidate k).pen with
      run := .ofNat 32 (runTerm s.side (candidate s k))
      box := .ofNat 32 (boxTerm s.side (candidate s k))
      find := .ofNat 32 (findTerm s.config.finderEdge s.side (candidate s k))
      bal := .ofNat 32 (balTerm s.side (candidate s k))
      total := .ofNat 32 (penalty s.config.finderEdge s.side (candidate s k)) } := by
    rw [← hmodules.runTerm_eq, ← hmodules.boxTerm_eq, ← hmodules.findTerm_eq, ← hmodules.balTerm_eq,
      ← hmodules.penalty_eq, ← hside, ← hconfig]
    rfl
  refine ⟨rfl, ?_, ?_, ?_, ?_, ?_, ?_, fun j => ?_⟩
  · rw [hpen]; exact toNat_ofNat_of_lt (by omega)
  · rw [hpen]; exact toNat_ofNat_of_lt (by omega)
  · rw [hpen]; exact toNat_ofNat_of_lt (by omega)
  · rw [hpen]; exact toNat_ofNat_of_lt (by omega)
  · rw [hpen]; exact toNat_ofNat_of_lt (by unfold penalty; omega)
  · rw [u.penm_scoreCandidate hk, if_pos rfl]
  · have hcand : (u.scoreCandidate k).candByte j = (enCand k u).candByte j := rfl
    rw [hcand, enCand_candByte, hside, hstride, hwork, htpl]
    split_ifs with hj
    · rfl
    · exact hrest j (Nat.not_lt.1 hj)

/-! ### The search (rule R194) -/

/-- After the turns of the masks below `n`: each has its penalty in `PENM`, `best` is the first of least penalty and `OUT` its
candidate, and the candidate of mask `n - 1` is the one scored last. -/
structure Searched (s : State) (n best : Nat) (u : State) : Prop where
  frame   : SameButSearch s u
  best_lt : best < n
  least   : ∀ k < n, penalty s.config.finderEdge s.side (candidate s best)
    ≤ penalty s.config.finderEdge s.side (candidate s k)
  first   : ∀ k < best, penalty s.config.finderEdge s.side (candidate s best)
    < penalty s.config.finderEdge s.side (candidate s k)
  penm    : ∀ k < n, (u.penm k).toNat = penalty s.config.finderEdge s.side (candidate s k)
  out     : ∀ j, u.outByte j = if j < s.stride * s.side then s.workByte j ^^^ s.tplByte best j else s.outByte j
  last    : CandidateScored s (n - 1) u

/-- The candidate copied to `OUT`. -/
theorem CandidateScored.copyCand {s u : State} {k : Nat} (hframe : SameButSearch s u) (h : CandidateScored s k u)
    (hrest : ∀ j, s.stride * s.side ≤ j → u.outByte j = s.outByte j) :
    CandidateScored s k u.copyCand
      ∧ ∀ j, u.copyCand.outByte j = if j < s.stride * s.side then s.workByte j ^^^ s.tplByte k j else s.outByte j := by
  obtain ⟨hside, hstride, -⟩ := hframe.reads
  refine ⟨{ h with }, fun j => ?_⟩
  rw [u.copyCand_outByte, hside, hstride, h.cand]
  split_ifs with hj
  · rfl
  · exact hrest j (Nat.not_lt.1 hj)

theorem searchTurn_first {s : State} (hs : PlanShape s) :
    ∃ u best, searchTurn (s, none) 0 = (u, some best) ∧ Searched s 1 best u := by
  have hscored := candidateScored_scoreCandidate hs (u := s) rfl (k := 0) (by decide) fun _ _ => rfl
  obtain ⟨hlast, hout⟩ := hscored.copyCand rfl fun _ _ => rfl
  refine ⟨_, 0, searchTurn_none s 0, rfl, by decide, fun k hk => ?_, nofun, fun k hk => ?_, hout, hlast⟩
  · obtain rfl : k = 0 := by omega
    exact le_rfl
  · obtain rfl : k = 0 := by omega
    rw [← hlast.total_eq]
    exact hlast.total

theorem searchTurn_next {s u : State} {n best : Nat} (hs : PlanShape s) (hn : n < 8) (h : Searched s n best u) :
    ∃ u' best', searchTurn (u, some best) n = (u', some best') ∧ Searched s (n + 1) best' u' := by
  have hbest := h.best_lt
  have hscored := candidateScored_scoreCandidate hs h.frame hn fun j hj => by
    rw [h.last.cand, if_neg (Nat.not_lt.2 hj)]
  have hframe := h.frame.trans (u.scoreCandidate_sameButSearch n)
  have hpenm : ∀ k < n + 1, ((u.scoreCandidate n).penm k).toNat
      = penalty s.config.finderEdge s.side (candidate s k) := by
    intro k hk
    rw [u.penm_scoreCandidate hn]
    split_ifs with hkn
    · rw [hkn, hscored.total]
    · exact h.penm k (by omega)
  rw [searchTurn_some]
  split_ifs with hlt
  · rw [BitVec.lt_def, hscored.total, hpenm best (by omega)] at hlt
    obtain ⟨hlast, hout⟩ := hscored.copyCand hframe fun j hj => (h.out j).trans (if_neg (Nat.not_lt.2 hj))
    refine ⟨_, n, rfl, hframe.trans (State.copyCand_sameButSearch _), Nat.lt_succ_self n, fun k hk => ?_, fun k hk => ?_,
      hpenm, hout, hlast⟩
    · obtain rfl | hk := Nat.eq_or_lt_of_le (Nat.le_of_lt_succ hk)
      · exact le_rfl
      · exact hlt.le.trans (h.least k hk)
    · exact hlt.trans_le (h.least k hk)
  · rw [BitVec.lt_def, hscored.total, hpenm best (by omega), Nat.not_lt] at hlt
    refine ⟨_, best, rfl, hframe, by omega, fun k hk => ?_, h.first, hpenm, h.out, hscored⟩
    obtain rfl | hk := Nat.eq_or_lt_of_le (Nat.le_of_lt_succ hk)
    · exact hlt
    · exact h.least k hk

theorem searchTurns_searched {s : State} (hs : PlanShape s) (n : Nat) (hn : n < 8) :
    ∃ u best, (List.range (n + 1)).foldl searchTurn (s, none) = (u, some best) ∧ Searched s (n + 1) best u := by
  induction n with
  | zero => exact searchTurn_first hs
  | succ n ih =>
    obtain ⟨u, best, hturns, hsearched⟩ := ih (by omega)
    rw [List.range_succ, List.foldl_append, hturns]
    exact searchTurn_next hs hn hsearched

/-- Settles O45: the search keeps a first mask of least penalty among those it has scored, turn by turn. -/
theorem enSelectKeepsLeastPenalty : Obligations.EnSelectKeepsLeastPenalty := by
  intro s hf hs hwork hn
  obtain ⟨u, best, hturns, h⟩ := searchTurns_searched hs 7 (by decide)
  have hselect : enSelect s = { u.latchCode with
      status := { u.latchCode.status with candOk := true, penOk := true }
      pen := { u.latchCode.pen with bestmask := .ofNat 3 best } } := by
    rw [enSelect, if_neg (by omega), search, hturns]
    rfl
  have hlast := h.last
  refine ⟨_, best, exec_enSelect hf hwork, h.best_lt, h.least, h.first, ?_, ?_⟩
  · rw [enSelect_frame, (enSelect_flags_of_eight hn).1, (enSelect_flags_of_eight hn).2]
    rfl
  · rw [hselect]
    exact ⟨rfl, hlast.candmask, h.penm, hlast.run, hlast.box, hlast.find, hlast.bal, hlast.total_eq, h.out, hlast.cand⟩

end Sys2Proof.Machine
end

section
/-! PROOFS. The grid the planner draws (rules R120 to R131): `GP.ALL` is one list of paints over a cleared grid; which cells the
list hits, and what it leaves in the others. -/

namespace Sys2Proof.Machine

open Sys2Proof.Claims

/-! ### One list of paints -/

theorem State.paintAll_append (s : State) (ps qs : List Paint) : s.paintAll (ps ++ qs) = (s.paintAll ps).paintAll qs :=
  List.foldl_append

/-- `s` with another status. -/
def State.withStatus (st : Status) (s : State) : State := { s with status := st }

/-- Painting does not see the status. -/
theorem State.paintAll_withStatus (s : State) (st : Status) (ps : List Paint) :
    (s.withStatus st).paintAll ps = (s.paintAll ps).withStatus st := by
  have hpaint : ∀ (u : State) (p : Paint), (u.withStatus st).paint p = (u.paint p).withStatus st :=
    fun u p => List.foldl_hom (State.withStatus st) (l := List.range u.ncopy)
      (init := { u with grid := Memory.set u.grid (cellIndex p.r p.c) ⟨p.role, .ofNat 15 p.off⟩ }) fun _ _ => rfl
  exact List.foldl_hom (State.withStatus st) hpaint

theorem gridStep_eq (ps : List Paint) (k : Fin 7) (s : State) :
    gridStep ps k s = (s.paintAll ps).withStatus { s.status with gpstep := k } := by
  rw [← (s.paintAll_sameButDrawing ps).status]
  rfl

/-- Two grid steps are the step of both lists of paints. -/
theorem gridStep_gridStep (ps qs : List Paint) (j k : Fin 7) (s : State) :
    gridStep qs k (gridStep ps j s) = gridStep (ps ++ qs) k s := by
  rw [gridStep_eq, gridStep_eq ps, gridStep_eq, State.paintAll_withStatus, State.paintAll_append]
  rfl

section
variable (ps : List Paint) (k : Fin 7) (s : State)

@[simp] theorem gridStep_side : (gridStep ps k s).side = s.side := by rw [gridStep_sameButGridStep]; rfl

@[simp] theorem gridStep_capEntry : (gridStep ps k s).capEntry = s.capEntry := by rw [gridStep_sameButGridStep]; rfl

@[simp] theorem gridStep_plan : (gridStep ps k s).plan = s.plan := by rw [gridStep_sameButGridStep]

theorem gridStep_cell (r c : Nat) : (gridStep ps k s).cell r c = (s.paintAll ps).cell r c := rfl

theorem gridStep_tplPixel (j r c : Nat) : (gridStep ps k s).tplPixel j r c = (s.paintAll ps).tplPixel j r c := rfl

end

/-- The paints of `GP.ALL` for the version in `CFG`. -/
def drawing (s : State) : List Paint :=
  allPaints (17 + 4 * s.cfg.version.toNat) s.cfg.version.toNat (capRecord s.config s.cfg.version.toNat).vpat
    (alignPositions (capRecord s.config s.cfg.version.toNat) (17 + 4 * s.cfg.version.toNat))

/-- `GP.ALL n` for a record that ends the alignment loop. -/
theorem gpAll_eq {s : State} (n : Nat) (h : alignSound (capRecord s.config s.cfg.version.toNat)) :
    gpAll n s = .done (gridStep (drawing s) 6 (gpInit n s)) := by
  have hcap : (gpInit n s).capEntry = capRecord s.config s.cfg.version.toNat := rfl
  have hversion : (gpInit n s).plan.plancfg.version = s.cfg.version := rfl
  simp only [gpAll, gpTiming, gpFinder, gpAlign, gpVerinfo, gpFmtrsv, gpDark, gridStep_side, gridStep_capEntry, gridStep_plan,
    gpInit_side, hcap, hversion, alignCoords_eq_alignPositions h (show 10 ≤ 17 + 4 * s.cfg.version.toNat by omega),
    Effect.andThen_done, gridStep_gridStep, drawing, allPaints, List.append_assoc]

/-! ### The cells a list of paints hits -/

theorem PaintsExactly.hits_iff {side : Nat} {ps : List Paint} {inside : Nat → Nat → Prop} {cell : Nat → Nat → Cell}
    {colour : Nat → Nat → Bool} (h : PaintsExactly side ps inside cell colour) (hside : side ≤ 256) {r c : Nat}
    (hc : c < 256) : (∃ p ∈ ps, cellIndex p.r p.c = cellIndex r c) ↔ inside r c := by
  constructor
  · rintro ⟨p, hp, he⟩
    obtain ⟨hpc, hin, -⟩ := h.sound p hp
    obtain ⟨rfl, rfl⟩ := (cellIndex_inj (by omega) hc).1 he
    exact hin
  · intro hin
    obtain ⟨p, hp, rfl, rfl⟩ := h.complete r c hin
    exact ⟨p, hp, rfl⟩

theorem alignPaints_hits_iff (e : CapEntry) {side : Nat} (h : 21 ≤ side) (hside : side ≤ 256) {r c : Nat} (hc : c < 256) :
    (∃ p ∈ alignPaints side (alignPositions e side), cellIndex p.r p.c = cellIndex r c) ↔
      ∃ r0 ∈ alignPositions e side, ∃ c0 ∈ alignPositions e side, ClearOfFinders side r0 c0 ∧ InBox r0 c0 r c := by
  constructor
  · rintro ⟨p, hp, he⟩
    have hpc := alignPaints_column_lt h hp
    obtain ⟨rfl, rfl⟩ := (cellIndex_inj (by omega) hc).1 he
    obtain ⟨r0, hr0, c0, hc0, hclear, hp⟩ := (mem_alignPaints h).1 hp
    exact ⟨r0, hr0, c0, hc0, hclear, (mem_alignBox.1 hp).1⟩
  · rintro ⟨r0, hr0, c0, hc0, hclear, hin⟩
    exact ⟨⟨r, c, .alignment, 0, alignColour (r - r0) (c - c0)⟩,
      (mem_alignPaints h).2 ⟨r0, hr0, c0, hc0, hclear, mem_alignBox.2 ⟨hin, rfl⟩⟩, rfl⟩

theorem exists_isFormatCell_iff (side r c : Nat) :
    (∃ i, IsFormatCell side i r c) ↔ (r, c) ∈ formatA ∨ (r, c) ∈ formatB side := by
  simp only [IsFormatCell, exists_or, List.mem_iff_getElem?]

/-- The paints of the grid planner hit the cells `fixedCell` says (rules R122 to R130). -/
theorem allPaints_hits_iff (e : CapEntry) {v r c : Nat} (hlo : 1 ≤ v) (hhi : v ≤ 40) (hr : r < 17 + 4 * v)
    (hc : c < 17 + 4 * v) :
    (∃ p ∈ allPaints (17 + 4 * v) v e.vpat (alignPositions e (17 + 4 * v)), cellIndex p.r p.c = cellIndex r c) ↔
      fixedCell e v r c = true := by
  have h21 : 21 ≤ 17 + 4 * v := by omega
  have h256 : 17 + 4 * v ≤ 256 := by omega
  have hc256 : c < 256 := by omega
  have htiming := (timingPaints_exact h21).hits_iff h256 (r := r) hc256
  have hfinder := (finderPaints_exact h21).hits_iff h256 (r := r) hc256
  have halign := alignPaints_hits_iff e h21 h256 (r := r) hc256
  have hverinfo := (verinfoPaints_exact (version := v) e.vpat rfl).hits_iff h256 (r := r) hc256
  have hfmtrsv := (fmtrsvPaints_exact h21).hits_iff h256 (r := r) hc256
  have hdark := (darkPaints_exact h21).hits_iff h256 (r := r) hc256
  rw [exists_isFormatCell_iff] at hfmtrsv
  simp only [allPaints, List.mem_append, or_and_right, exists_or, htiming, hfinder, halign, hverinfo, hfmtrsv, hdark]
  simp only [fixedCell, Bool.or_eq_true, Bool.and_eq_true, beq_iff_eq, List.any_eq_true, decide_eq_true_eq,
    List.contains_iff_mem, hr, hc, and_true, true_and, or_assoc]

/-! ### The cells and modules of the drawn grid -/

/-- No paint has the role of a bit of the stream, and only `GP.FMTRSV` reserves for the format word. -/
theorem allPaints_role_cases {side version : Nat} {vpat : BitVec 18} {coords : List Nat} (h : 21 ≤ side) {p : Paint}
    (hp : p ∈ allPaints side version vpat coords) :
    Role.masked p.role = false ∧ (p.role = .format → p ∈ fmtrsvPaints side) := by
  simp only [allPaints, List.mem_append] at hp
  rcases hp with ((((hp | hp) | hp) | hp) | hp) | hp
  · obtain ⟨i, -, rfl | rfl⟩ := mem_timingPaints.1 hp <;> exact ⟨rfl, nofun⟩
  · obtain ⟨-, -, centre, -, -, hp⟩ := mem_finderPaints.1 hp
    rw [hp]
    exact ⟨rfl, nofun⟩
  · obtain ⟨r0, -, c0, -, -, hp⟩ := (mem_alignPaints h).1 hp
    obtain ⟨-, hp⟩ := mem_alignBox.1 hp
    rw [hp]
    exact ⟨rfl, nofun⟩
  · obtain ⟨-, x, -, y, -, rfl | rfl⟩ := mem_verinfoPaints.1 hp <;> exact ⟨rfl, nofun⟩
  · refine ⟨?_, fun _ => hp⟩
    obtain ⟨i, -, rfl | rfl⟩ := mem_fmtrsvPaints.1 hp <;> rfl
  · obtain rfl : p = ⟨side - 8, 8, .unused, 0, true⟩ := by simpa [darkPaints] using hp
    exact ⟨rfl, nofun⟩

/-- A cell after a list of paints is as it was, or as one of the paints that hit it says. -/
theorem State.cell_paintAll_cases (s : State) (ps : List Paint) (r c : Nat) :
    (s.paintAll ps).cell r c = s.cell r c
      ∨ ∃ p ∈ ps, cellIndex p.r p.c = cellIndex r c ∧ (s.paintAll ps).cell r c = ⟨p.role, .ofNat 15 p.off⟩ := by
  induction ps generalizing s with
  | nil => exact .inl rfl
  | cons p ps ih =>
    have hcons : s.paintAll (p :: ps) = (s.paint p).paintAll ps := rfl
    rw [hcons]
    rcases ih (s.paint p) with h | ⟨q, hq, hat, h⟩
    · rw [h, s.cell_paint]
      split_ifs with hp
      · exact .inr ⟨p, List.mem_cons_self, hp, rfl⟩
      · exact .inl rfl
    · exact .inr ⟨q, List.mem_cons_of_mem p hq, hat, h⟩

/-- The placeholders of the format word keep their role and bit: `GP.DARK` hits none of them. -/
theorem State.cell_allPaints_of_isFormatCell (s : State) {v : Nat} {vpat : BitVec 18} {coords : List Nat} (hlo : 1 ≤ v)
    (hhi : v ≤ 40) {i r c : Nat} (hat : IsFormatCell (17 + 4 * v) i r c) :
    (s.paintAll (allPaints (17 + 4 * v) v vpat coords)).cell r c = ⟨.format, .ofNat 15 i⟩ := by
  have h21 : 21 ≤ 17 + 4 * v := by omega
  have h256 : 17 + 4 * v ≤ 256 := by omega
  have hc := isFormatCell_column_lt h21 hat
  have hdark : ¬ (r = 17 + 4 * v - 8 ∧ c = 8) := by
    obtain ⟨hi, hcell⟩ := (isFormatCell_iff (by omega) i r c).1 hat
    simp only [fmtA, fmtB] at hcell
    split_ifs at hcell <;> simp only [Prod.mk.injEq] at hcell <;> omega
  rw [← (darkPaints_exact h21).hits_iff h256 (by omega)] at hdark
  rw [allPaints, State.paintAll_append, State.paintAll_append,
    State.cell_paintAll_of_not_hit _ _ r c fun p hp he => hdark ⟨p, hp, he⟩]
  refine State.cell_paintAll_of_hit _ _ r c _ (((fmtrsvPaints_exact h21).hits_iff h256 (by omega)).2 ⟨i, hat⟩)
    fun p hp he => ?_
  obtain ⟨hpc, -, hcell, -⟩ := (fmtrsvPaints_exact h21).sound p hp
  obtain ⟨rfl, rfl⟩ := (cellIndex_inj (by omega) (by omega)).1 he
  rw [hcell, formatBit_eq_of_isFormatCell h21 hat]

/-- What the grid planner leaves for the rest of the plan: the format cells at the placeholders of the table of rule R129, no
cell yet for the stream, and white modules where no cell is assigned. -/
structure Drawn (g : State) : Prop where
  shape      : PlanShape g
  formatted  : ∀ i r c, IsFormatCell g.side i r c → g.cell r c = ⟨.format, .ofNat 15 i⟩
  formatOnly : ∀ r c, r < g.side → c < g.side → (g.cell r c).role = .format → ∃ i, IsFormatCell g.side i r c
  unmasked   : ∀ r c, r < g.side → c < g.side → Role.masked (g.cell r c).role = false
  column     : ∀ r, r < g.side → (g.cell r 6).role ≠ .unassigned
  white      : ∀ k r c, k < g.ncopy → r < g.side → c < g.side → (g.cell r c).role = .unassigned →
    g.tplPixel k r c = false

/-- `GP.INIT n` leaves the templates of the plan white. -/
theorem gpInit_tplPixel {n : Nat} {s : State} {k r c : Nat} (hk : k < n) (hk8 : k < 8) (hr : r < (gpInit n s).side)
    (hc : c < 8 * (gpInit n s).stride) : (gpInit n s).tplPixel k r c = false := by
  have hbyte : (gpInit n s).tplByte k (pixelByte (gpInit n s).stride r c) = 0 := by
    rw [gpInit_tplByte n s _ hk8, if_pos ⟨hk, pixelByte_lt hr hc⟩]
  exact (pixel_congr (g := fun _ => 0) hbyte).trans (by simp [pixel])

section
variable {s : State} {n : Nat} (hlo : 1 ≤ s.cfg.version.toNat) (hhi : s.cfg.version.toNat ≤ 40) (hn : n = 1 ∨ n = 8)
include hlo

theorem mem_drawing_column_lt {p : Paint} (hp : p ∈ drawing s) : p.c < 17 + 4 * s.cfg.version.toNat := by
  have h : 21 ≤ 17 + 4 * s.cfg.version.toNat := by omega
  simp only [drawing, allPaints, List.mem_append] at hp
  rcases hp with ((((hp | hp) | hp) | hp) | hp) | hp
  · exact ((timingPaints_exact h).sound p hp).1
  · exact ((finderPaints_exact h).sound p hp).1
  · exact alignPaints_column_lt h hp
  · exact ((verinfoPaints_exact _ rfl).sound p hp).1
  · exact ((fmtrsvPaints_exact h).sound p hp).1
  · exact ((darkPaints_exact h).sound p hp).1

include hhi

/-- The cells `GP.ALL` leaves unassigned are the cells it does not draw. -/
theorem gpAll_unassigned_iff (h : alignSound (capRecord s.config s.cfg.version.toNat)) {g : State} (hg : gpAll n s = .done g)
    {r c : Nat} (hr : r < 17 + 4 * s.cfg.version.toNat) (hc : c < 17 + 4 * s.cfg.version.toNat) :
    (g.cell r c).role = .unassigned ↔
      fixedCell (capRecord s.config s.cfg.version.toNat) s.cfg.version.toNat r c = false := by
  obtain ⟨coords, hcoords, hcells⟩ := gpAll_unassigned hg hhi
  obtain rfl := Option.some.inj ((alignCoords_eq_alignPositions h (by omega)).symm.trans hcoords)
  rw [hcells r c hr hc, ← Bool.not_eq_true, ← allPaints_hits_iff _ hlo hhi hr hc]
  simp only [not_exists, not_and, ne_eq]

/-- `F` of rule R41 is the number of cells `GP.ALL` leaves free. -/
theorem freeCells_gpAll (h : alignSound (capRecord s.config s.cfg.version.toNat)) {g : State} (hg : gpAll n s = .done g) :
    freeCells g = plannedFree (capRecord s.config s.cfg.version.toNat) s.cfg.version.toNat := by
  have hside : g.side = 17 + 4 * s.cfg.version.toNat := by rw [(gpAll_frame hg).1]; exact gpInit_side n s
  unfold freeCells plannedFree
  rw [hside]
  congr 1
  refine List.filter_congr fun p hp => ?_
  obtain ⟨hr, hc⟩ := (sweepOrder_nodup_and_bounds hlo hhi).2 p hp
  rw [Bool.eq_iff_iff, decide_eq_true_eq, gpAll_unassigned_iff hlo hhi h hg hr hc, Bool.not_eq_true']

/-- A cell of the grid is blank after `GP.ALL` or as one of its paints says. -/
theorem cell_drawing_cases {r c : Nat} (hr : r < 17 + 4 * s.cfg.version.toNat) (hc : c < 17 + 4 * s.cfg.version.toNat) :
    (gridStep (drawing s) 6 (gpInit n s)).cell r c = Cell.blank
      ∨ ∃ p ∈ drawing s, p.r = r ∧ p.c = c
        ∧ (gridStep (drawing s) 6 (gpInit n s)).cell r c = ⟨p.role, .ofNat 15 p.off⟩ := by
  rw [gridStep_cell]
  rcases (gpInit n s).cell_paintAll_cases (drawing s) r c with hkept | ⟨p, hp, hat, hpaint⟩
  · rw [hkept, gpInit_cell n hhi (by omega), if_pos (by rw [gpInit_side]; exact ⟨hr, hc⟩)]
    exact .inl rfl
  · have hpc := mem_drawing_column_lt hlo hp
    obtain ⟨hr', hc'⟩ := (cellIndex_inj (by omega) (by omega)).1 hat
    exact .inr ⟨p, hp, hr', hc', hpaint⟩

include hn

theorem gpAll_planShape {g : State} (hg : gpAll n s = .done g) : PlanShape g := by
  have h := gpInit_planShape hlo hhi hn
  rw [(gpAll_frame hg).1]
  exact { h with }

/-- `GP.ALL` leaves a drawn grid. -/
theorem gpAll_drawn (h : alignSound (capRecord s.config s.cfg.version.toNat)) {g : State} (hg : gpAll n s = .done g) :
    Drawn g := by
  have h21 : 21 ≤ 17 + 4 * s.cfg.version.toNat := by omega
  have hshape := gpAll_planShape hlo hhi hn hg
  have hgside : g.side = 17 + 4 * s.cfg.version.toNat := by rw [(gpAll_frame hg).1]; exact gpInit_side n s
  have hgncopy : g.ncopy = n := by rw [(gpAll_frame hg).1]; exact gpInit_ncopy s (by omega)
  have hgeq := Effect.done.inj ((gpAll_eq n h).symm.trans hg)
  refine ⟨hshape, fun i r c hat => ?_, fun r c hr hc hformat => ?_, fun r c hr hc => ?_,
    fun r hr => ?_, fun k r c hk hr hc hfree => ?_⟩
  · rw [hgside] at hat
    rw [← hgeq, gridStep_cell]
    exact State.cell_allPaints_of_isFormatCell _ hlo hhi hat
  · rw [hgside] at hr hc ⊢
    rw [← hgeq] at hformat
    rcases cell_drawing_cases hlo hhi hr hc with hblank | ⟨p, hp, rfl, rfl, hpaint⟩
    · rw [hblank] at hformat
      cases hformat
    · rw [hpaint] at hformat
      exact ((fmtrsvPaints_exact h21).sound p ((allPaints_role_cases h21 hp).2 hformat)).2.1
  · rw [hgside] at hr hc
    rw [← hgeq]
    rcases cell_drawing_cases hlo hhi hr hc with hblank | ⟨p, hp, rfl, rfl, hpaint⟩
    · rw [hblank]; rfl
    · rw [hpaint]; exact (allPaints_role_cases h21 hp).1
  · rw [hgside] at hr
    rw [ne_eq, gpAll_unassigned_iff hlo hhi h hg hr (by omega)]
    simp [fixedCell]
  · rw [hgside] at hr hc
    have hnone : ¬ ∃ p ∈ drawing s, cellIndex p.r p.c = cellIndex r c := by
      rw [gpAll_unassigned_iff hlo hhi h hg hr hc, ← Bool.not_eq_true] at hfree
      rwa [drawing, allPaints_hits_iff _ hlo hhi hr hc]
    have hside := gpInit_side n s
    have hstride := (gpInit_planShape hlo hhi hn).side_le_stride
    rw [hgncopy] at hk
    rw [← hgeq, gridStep_tplPixel, State.tplPixel_paintAll_of_not_hit _ _ (by omega) (by omega)]
    · exact gpInit_tplPixel hk (by omega) (by omega) (by omega)
    · exact fun p hp => (mem_drawing_column_lt hlo hp).trans_le (by omega)
    · exact .inr fun p hp hat => hnone ⟨p, hp, by rw [hat.1, hat.2]⟩

end

end Sys2Proof.Machine
end

section
/-! PROOFS. The plan (rules R49, R186, R187): the grid once it is filled, the templates role by role, and `PL.PLAN` as the step
commands that build the same plan. -/

namespace Sys2Proof.Machine

open Sys2Proof.Claims

/-! ### The mask asked for (rule R186) -/

theorem requestedMask_of_le {s : State} (h : s.cfg.mask.toNat ≤ 7) : requestedMask s = s.cfg.mask.toNat :=
  BitVec.toInt_eq_toNat_of_lt (by omega)

theorem requestedMask_of_search {s : State} (h : s.cfg.mask.toNat = 15) : requestedMask s = -1 := by
  have hmask : s.cfg.mask = 15 := BitVec.eq_of_toNat_eq h
  unfold requestedMask
  rw [hmask]
  rfl

theorem planTemplates_of_le {s : State} (h : s.cfg.mask.toNat ≤ 7) :
    planTemplates s = planTemplate s.cfg.mask.toNat 0 s := by
  have hmask := requestedMask_of_le h
  rw [planTemplates, if_pos (by omega), hmask, Int.toNat_natCast]

theorem planTemplates_of_search {s : State} (h : s.cfg.mask.toNat = 15) :
    planTemplates s = (List.range 8).foldl (fun t k => planTemplate k k t) s := by
  have hmask := requestedMask_of_search h
  rw [planTemplates, if_neg (by omega)]

theorem parametersInRange_plPlan_iff (s : State) :
    parametersInRange .plPlan s = true ↔ 1 ≤ s.cfg.version.toNat ∧ s.cfg.version.toNat ≤ 40 ∧ s.cfg.level.toNat ≤ 3
      ∧ (s.cfg.mask.toNat ≤ 7 ∨ s.cfg.mask.toNat = 15) := by
  simp [parametersInRange, and_assoc]

/-! ### From `GP.ALL` to `BL.ALL` -/

theorem exec_gpAll {n : Nat} {s g : State} (hf : s.status.fatal = false) (hlo : 1 ≤ s.cfg.version.toNat)
    (hhi : s.cfg.version.toNat ≤ 40) (hn : n = 1 ∨ n = 8) (hg : gpAll n s = .done g) : exec (.gpAll n) s = .next g.finish :=
  exec_done (i := .gpAll n) nofun ⟨hf, rfl, (parametersInRange_gpInit_iff n s).2 ⟨hlo, hhi, hn⟩, rfl⟩ hg

/-- After `GP.ALL` the block layout can be computed. -/
theorem gpAll_ready_blAll {n : Nat} {s g : State} (hf : s.status.fatal = false) (hlevel : s.cfg.level.toNat ≤ 3)
    (hg : gpAll n s = .done g) : Ready .blAll g := by
  obtain ⟨hframe, hstep⟩ := gpAll_frame hg
  have hkeeps := gpAll_keeps hg
  refine ⟨hkeeps.fatal.trans hf, (precondition_blAll_iff g).2 ⟨?_, hstep, ?_, ?_⟩, decide_eq_true ?_, rfl⟩
  · rw [hframe]; rfl
  · rw [hframe]; rfl
  · rw [hframe]; rfl
  · rwa [hkeeps.cfg]

theorem blParam_finish {s t : State} (h : blParam s = .done t) : blParam s.finish = .done t.finish := by
  simp only [blParam] at h
  split_ifs at h with hdefect
  cases h
  exact if_neg hdefect

/-- `BL.ALL` does not see how the last command ended. -/
theorem blAll_finish {s t : State} (h : blAll s = .done t) : blAll s.finish = .done t.finish := by
  obtain ⟨u, hu, ht⟩ := blAll_done h
  rw [blAll_of_blParam_done (blParam_finish hu)]
  exact blSweep_finish ht

theorem exec_blAll {s t : State} (hready : Ready .blAll s) (h : blAll s = .done t) : exec .blAll s.finish = .next t.finish :=
  (exec_done (i := .blAll) (s := s.finish) nofun hready (blAll_finish h) :)

/-! ### The filled grid (rules R46, R146) -/

theorem isFormatCell_row_lt {side i r c : Nat} (hs : 21 ≤ side) (h : IsFormatCell side i r c) : r < side := by
  obtain ⟨hi, h⟩ := (isFormatCell_iff (by omega) i r c).1 h
  simp only [fmtA, fmtB] at h
  split_ifs at h <;> simp only [Prod.mk.injEq] at h <;> omega

/-- The sweep of a drawn grid fills every cell that is left: column 6, which it does not visit, is drawn. -/
theorem Drawn.mem_freeInOrder {g : State} (h : Drawn g) {r c : Nat} (hr : r < g.side) (hc : c < g.side)
    (hfree : (g.cell r c).role = .unassigned) : (r, c) ∈ freeInOrder g := by
  have hc6 : c ≠ 6 := by
    rintro rfl
    exact h.column r hr hfree
  have hside := h.shape.side_eq_version
  rw [hside] at hr hc
  obtain ⟨-, hplace⟩ := sweepVisitsEveryCellInOrder _ h.shape.version_lo h.shape.version_hi
  refine List.mem_filter.2 ⟨?_, decide_eq_true hfree⟩
  rw [hside]
  exact List.mem_of_getElem? (hplace r c hr hc hc6)

/-- `BL.ALL` gives each free cell of the grid a bit of the stream, and keeps the others. -/
theorem blAll_cell {g b : State} (hdrawn : Drawn g) (hready : Ready .blAll g) (h : blAll g = .done b) {r c : Nat}
    (hr : r < g.side) (hc : c < g.side) :
    ((g.cell r c).role = .unassigned ∧ Role.masked (b.cell r c).role = true)
      ∨ ((g.cell r c).role ≠ .unassigned ∧ b.cell r c = g.cell r c) := by
  obtain ⟨hf, hpre, hlevel, -⟩ := hready
  obtain ⟨-, -, hl, hp⟩ := (precondition_blAll_iff g).1 hpre
  obtain ⟨u, hu, hsweep⟩ := blAll_done h
  obtain ⟨hsound, hframe⟩ := blParam_done hu
  obtain ⟨u', hu', hblock, -⟩ := blParam_isDone (of_decide_eq_true hlevel) hsound
  obtain rfl := Effect.done.inj (hu.symm.trans hu')
  obtain ⟨-, -, -, hfree⟩ := blIlv_of_blParam hu hblock
  have hshape : PlanShape (blIlv u) := by
    rw [hframe]
    exact { hdrawn.shape with }
  have hcells : ∀ r c, (blIlv u).cell r c = g.cell r c := fun r c => by rw [hframe]; rfl
  have hilv : Ready .blIlv u := by
    refine ⟨?_, (precondition_blIlv_iff u).2 ?_, rfl, rfl⟩ <;> rw [hframe]
    · exact hf
    · exact ⟨rfl, hl, hp⟩
  have hnumbers := blIlv_numbers hilv hblock
  have hfilled := blSweep_filled hshape hsweep
  have hside := hdrawn.shape.side_bounds.2
  by_cases hunassigned : (g.cell r c).role = .unassigned
  · have hmem := hdrawn.mem_freeInOrder hr hc hunassigned
    rw [← hfree] at hmem
    obtain ⟨p, hp⟩ := List.mem_iff_getElem?.1 hmem
    refine .inl ⟨hunassigned, ?_⟩
    rw [hfilled.given p r c hp]
    exact hnumbers.masked hfilled.stream (hfilled.seqlen.trans hblock.blIlv_seqlen.le) (List.getElem?_eq_some_iff.1 hp).1
  · refine .inr ⟨hunassigned, (hfilled.kept r c (by omega) fun hmem => hunassigned ?_).trans (hcells r c)⟩
    rw [hfree] at hmem
    exact of_decide_eq_true (List.mem_filter.1 hmem).2

/-- The grid is full, and the templates hold the fixed patterns only. -/
structure Finished (b : State) : Prop where
  shape      : PlanShape b
  assigned   : ∀ r c, r < b.side → c < b.side → (b.cell r c).role ≠ .unassigned
  formatted  : ∀ i r c, IsFormatCell b.side i r c → b.cell r c = ⟨.format, .ofNat 15 i⟩
  formatOnly : ∀ r c, r < b.side → c < b.side → (b.cell r c).role = .format → ∃ i, IsFormatCell b.side i r c
  white      : ∀ k r c, k < b.ncopy → r < b.side → c < b.side → Role.masked (b.cell r c).role = true →
    b.tplPixel k r c = false

theorem blAll_tplPixel {s t : State} (h : blAll s = .done t) (k r c : Nat) : t.tplPixel k r c = s.tplPixel k r c := by
  rw [blAll_frame h]; rfl

theorem blAll_finished {g b : State} (hdrawn : Drawn g) (hready : Ready .blAll g) (h : blAll g = .done b) : Finished b := by
  have hside : b.side = g.side := by rw [blAll_frame h]; rfl
  have hncopy : b.ncopy = g.ncopy := by rw [blAll_frame h]; rfl
  have h21 := hdrawn.shape.side_bounds.1
  have hcell := fun r c hr hc => blAll_cell hdrawn hready h (r := r) (c := c) hr hc
  refine ⟨?_, ?_, ?_, ?_, ?_⟩
  · rw [blAll_frame h]
    exact { hdrawn.shape with }
  all_goals rw [hside]
  · intro r c hr hc hfree
    rcases hcell r c hr hc with ⟨-, hmasked⟩ | ⟨hassigned, hkept⟩
    · rw [hfree] at hmasked
      cases hmasked
    · exact hassigned (hkept ▸ hfree)
  · intro i r c hat
    rcases hcell r c (isFormatCell_row_lt h21 hat) (isFormatCell_column_lt h21 hat) with ⟨hfree, -⟩ | ⟨-, hkept⟩
    · rw [hdrawn.formatted i r c hat] at hfree
      cases hfree
    · rw [hkept, hdrawn.formatted i r c hat]
  · intro r c hr hc hformat
    rcases hcell r c hr hc with ⟨-, hmasked⟩ | ⟨-, hkept⟩
    · rw [hformat] at hmasked
      cases hmasked
    · exact hdrawn.formatOnly r c hr hc (hkept ▸ hformat)
  · intro k r c hk hr hc hmasked
    rw [hncopy] at hk
    rw [blAll_tplPixel h]
    rcases hcell r c hr hc with ⟨hfree, -⟩ | ⟨-, hkept⟩
    · exact hdrawn.white k r c hk hr hc hfree
    · rw [hkept, hdrawn.unmasked r c hr hc] at hmasked
      cases hmasked

/-! ### One template (rule R49) -/

/-- Module `(r, c)` of `TPL[k]` by the role of its cell: the bit of the format word of mask `m`, the mask, or the module drawn. -/
def roleModule (s : State) (m k r c : Nat) : Bool :=
  match (s.cell r c).role with
  | .format => (formatWord s.plan.plancfg.level m).getLsbD (s.cell r c).off.toNat
  | .data | .check | .extra => mask m r c
  | .unassigned | .position | .alignment | .timing | .versionPattern | .unused => s.tplPixel k r c

section
variable {s : State} {m k r c : Nat}

theorem roleModule_of_format (h : (s.cell r c).role = .format) :
    roleModule s m k r c = (formatWord s.plan.plancfg.level m).getLsbD (s.cell r c).off.toNat := by
  unfold roleModule
  rw [h]

theorem roleModule_of_masked (h : Role.masked (s.cell r c).role = true) : roleModule s m k r c = mask m r c := by
  unfold roleModule
  cases hrole : (s.cell r c).role with
  | data | check | extra => rfl
  | _ => rw [hrole] at h; cases h

theorem roleModule_of_fixed (h : (s.cell r c).role ≠ .format) (h' : Role.masked (s.cell r c).role = false) :
    roleModule s m k r c = s.tplPixel k r c := by
  unfold roleModule
  cases hrole : (s.cell r c).role with
  | format => exact absurd hrole h
  | data | check | extra => rw [hrole] at h'; cases h'
  | _ => rfl

end

theorem PlanShape.ncopy_cases {s : State} (h : PlanShape s) : s.ncopy = 1 ∨ s.ncopy = 8 :=
  h.ncopy_eq.imp (congrArg BitVec.toNat) (congrArg BitVec.toNat)

theorem SameButFormat.planShape {s u : State} (h : SameButFormat s u) (hs : PlanShape s) : PlanShape u := by
  rw [h]
  exact { hs with }

theorem SameButFormat.ncopy {s u : State} (h : SameButFormat s u) : u.ncopy = s.ncopy := by
  rw [h]; rfl

/-- What `FI.PLAN` and `MK.APPLY` only read. -/
theorem SameButFormat.reads {s u : State} (h : SameButFormat s u) :
    u.side = s.side ∧ u.stride = s.stride ∧ u.plan.plancfg = s.plan.plancfg ∧ ∀ r c, u.cell r c = s.cell r c := by
  rw [h]
  exact ⟨rfl, rfl, rfl, fun _ _ => rfl⟩

theorem fiPlan_sameButFormat (m k : Nat) (s : State) : SameButFormat s (fiPlan m k s) := by
  unfold SameButFormat fiPlan
  rw [fiPaint_sameButTemplates]
  rfl

/-- The effects of `FI.PLAN m, k` and `MK.APPLY m, k`: the masked modules of `TPL[k]` are flipped after the format bits are
written. -/
theorem PlanShape.tplPixel_planTemplate {u : State} (hu : PlanShape u) (m k : Nat) {k' r c : Nat} (hk : k' < 8)
    (hr : r < u.side) (hc : c < u.side) :
    (planTemplate m k u).tplPixel k' r c =
      ((fiPlan m k u).tplPixel k' r c ^^ (k' == k && Role.masked (u.cell r c).role && mask m r c)) := by
  have hframe := fiPlan_sameButFormat m k u
  obtain ⟨hside, hstride, -, hcell⟩ := hframe.reads
  have hstride' := hu.side_le_stride
  rw [planTemplate, (hframe.planShape hu).tplPixel_mkApply m k hk (by omega), hside, hcell]
  simp only [hr, hc, decide_true, Bool.and_true, Role.masked_eq]

section
variable {s u : State} {m k r c : Nat} (hs : Finished s) (h : SameButFormat s u) (hr : r < s.side) (hc : c < s.side)
include hs h hr hc

/-- The other templates are not written. -/
theorem Finished.tplPixel_planTemplate_of_ne {k' : Nat} (hk : k' < 8) (hne : k' ≠ k) :
    (planTemplate m k u).tplPixel k' r c = u.tplPixel k' r c := by
  obtain ⟨hside, hstride, -⟩ := h.reads
  have hshape := h.planShape hs.shape
  have hstride' := hshape.side_le_stride
  have hpaint : (fiPlan m k u).tplPixel k' r c = (fiEnc m u).tplPixel k' r c :=
    PlanShape.tplPixel_fiPaint_of_not_isFormatCell (s := fiEnc m u) { hshape with } hk (c := c) (show c < 8 * u.stride by omega)
      fun hat => hne hat.1
  rw [hshape.tplPixel_planTemplate m k hk (by omega) (by omega), hpaint, beq_false_of_ne hne]
  simp only [Bool.false_and, Bool.xor_false]
  rfl

/-- A template not yet written shows each module by its role afterwards. -/
theorem Finished.tplPixel_planTemplate (hk : k < s.ncopy) (hdrawn : u.tplPixel k r c = s.tplPixel k r c) :
    (planTemplate m k u).tplPixel k r c = roleModule s m k r c := by
  obtain ⟨hside, hstride, hplancfg, hcell⟩ := h.reads
  have hshape := h.planShape hs.shape
  have hstride' := hshape.side_le_stride
  have hk8 : k < 8 := by have := hs.shape.ncopy_cases; omega
  have henc : PlanShape (fiEnc m u) := { hshape with }
  rw [hshape.tplPixel_planTemplate m k hk8 (by omega) (by omega), hcell, beq_self_eq_true, Bool.true_and]
  by_cases hformat : (s.cell r c).role = .format
  · obtain ⟨i, hat⟩ := hs.formatOnly r c hr hc hformat
    have hpaint : (fiPlan m k u).tplPixel k r c = (formatWord u.plan.plancfg.level m).getLsbD i :=
      henc.tplPixel_fiPaint_of_isFormatCell hk8 (show IsFormatCell u.side i r c by rwa [hside])
    have hi := ((isFormatCell_iff (by have := hs.shape.side_bounds; omega) i r c).1 hat).1
    rw [roleModule_of_format hformat, hpaint, hplancfg, hs.formatted i r c hat]
    simp only [Role.masked, Bool.false_and, Bool.xor_false, BitVec.toNat_ofNat]
    rw [Nat.mod_eq_of_lt (by omega)]
  · have hnot : ¬ ∃ i, IsFormatCell u.side i r c := by
      rintro ⟨i, hat⟩
      rw [hside] at hat
      rw [hs.formatted i r c hat] at hformat
      exact hformat rfl
    have hpaint : (fiPlan m k u).tplPixel k r c = u.tplPixel k r c :=
      henc.tplPixel_fiPaint_of_not_isFormatCell hk8 (c := c) (show c < 8 * u.stride by omega) fun hat => hnot hat.2
    rw [hpaint, hdrawn]
    cases hmasked : Role.masked (s.cell r c).role with
    | true => rw [hs.white k r c hk hr hc hmasked, roleModule_of_masked hmasked, Bool.false_xor, Bool.true_and]
    | false => rw [roleModule_of_fixed hformat hmasked, Bool.false_and, Bool.xor_false]

end

/-! ### The templates of the plan (rules R49, R186) -/

/-- One template after the other: those below `n` are written, each with its own mask. -/
theorem Finished.tplPixel_planTemplates {s : State} (hs : Finished s) {n : Nat} (hn : n ≤ s.ncopy) {k r c : Nat}
    (hk : k < s.ncopy) (hr : r < s.side) (hc : c < s.side) :
    SameButFormat s ((List.range n).foldl (fun t k => planTemplate k k t) s)
      ∧ ((List.range n).foldl (fun t k => planTemplate k k t) s).tplPixel k r c =
        if k < n then roleModule s k k r c else s.tplPixel k r c := by
  induction n with
  | zero => exact ⟨rfl, rfl⟩
  | succ n ih =>
    obtain ⟨hframe, hpixel⟩ := ih (by omega)
    rw [List.range_succ, List.foldl_append, List.foldl_cons, List.foldl_nil]
    refine ⟨hframe.trans (planTemplate_sameButFormat n n _), ?_⟩
    by_cases hkn : k = n
    · subst hkn
      rw [if_neg (lt_irrefl k)] at hpixel
      rw [hs.tplPixel_planTemplate hframe hr hc hk hpixel, if_pos (Nat.lt_succ_self k)]
    · have hk8 : k < 8 := by have := hs.shape.ncopy_cases; omega
      have hlt : k < n + 1 ↔ k < n := by omega
      rw [hs.tplPixel_planTemplate_of_ne hframe hr hc hk8 hkn, hpixel]
      simp only [hlt]

/-- The mask of template `k` of a plan of `n` copies (rule R49). -/
def templateMask (s : State) (n k : Nat) : Nat := if n = 1 then s.cfg.mask.toNat else k

/-- `PL.PLAN` asks for as many copies as it writes templates. -/
theorem Finished.tplPixel_planTemplates_of_copies {b : State} (hb : Finished b)
    (hmask : b.cfg.mask.toNat ≤ 7 ∨ b.cfg.mask.toNat = 15) (hn : b.ncopy = if 0 ≤ requestedMask b then 1 else 8)
    {k r c : Nat} (hk : k < b.ncopy) (hr : r < b.side) (hc : c < b.side) :
    (planTemplates b).tplPixel k r c = roleModule b (templateMask b b.ncopy k) k r c ∧ templateMask b b.ncopy k ≤ 7 := by
  rcases hmask with hfixed | hsearch
  · rw [requestedMask_of_le hfixed, if_pos (by omega)] at hn
    obtain rfl : k = 0 := by omega
    rw [planTemplates_of_le hfixed, templateMask, if_pos hn]
    exact ⟨hb.tplPixel_planTemplate rfl hr hc hk rfl, hfixed⟩
  · rw [requestedMask_of_search hsearch, if_neg (by omega)] at hn
    have hturns := (hb.tplPixel_planTemplates hn.ge hk hr hc).2
    rw [planTemplates_of_search hsearch, templateMask, if_neg (by omega), hturns, if_pos (by omega)]
    exact ⟨rfl, by omega⟩

/-- The bit of the printed format word a format cell shows. -/
theorem Finished.roleModule_of_format {b : State} (hb : Finished b) {m k r c : Nat} (hr : r < b.side) (hc : c < b.side)
    (hm : m ≤ 7) (hlevel : b.plan.plancfg.level.toNat ≤ 3) (h : (b.cell r c).role = .format) :
    roleModule b m k r c = (tableFormatWord b.plan.plancfg.level.toNat m).testBit (b.cell r c).off.toNat := by
  obtain ⟨i, hat⟩ := hb.formatOnly r c hr hc h
  have hi := ((isFormatCell_iff (by have := hb.shape.side_bounds; omega) i r c).1 hat).1
  have hoff : (b.cell r c).off.toNat = i := by
    rw [hb.formatted i r c hat, BitVec.toNat_ofNat, Nat.mod_eq_of_lt (by omega)]
  rw [Machine.roleModule_of_format h, formatWord_eq_tableFormatWord hlevel hm, hoff, BitVec.getLsbD_ofNat,
    decide_eq_true hi, Bool.true_and]

/-- What a plan shows once it is sealed: the grid of `BL.ALL`, the templates and the mask asked for. -/
theorem sealPlan_planTemplates_reads (b : State) :
    (sealPlan (planTemplates b)).finish.side = b.side ∧ (sealPlan (planTemplates b)).finish.ncopy = b.ncopy
      ∧ (sealPlan (planTemplates b)).finish.plan.plancfg = { b.plan.plancfg with mask := b.cfg.mask }
      ∧ (∀ r c, (sealPlan (planTemplates b)).finish.cell r c = b.cell r c)
      ∧ ∀ k r c, (sealPlan (planTemplates b)).finish.tplPixel k r c = (planTemplates b).tplPixel k r c := by
  refine ⟨?_, ?_, ?_, ?_, fun _ _ _ => rfl⟩ <;> rw [sealPlan, (planTemplates_sameButFormat b).1]
  · rfl
  · rfl
  · rfl
  · exact fun _ _ => rfl

/-- Settles O48: the sweep fills what the grid planner leaves; each template is written in its own turn over white modules. -/
theorem planTemplatesByRole : Obligations.PlanTemplatesByRole := by
  intro s t hf halign h hok
  obtain ⟨⟨-, -, hparam, -⟩, w, hw, rfl⟩ := exec_ok (i := .plPlan) nofun h hok
  obtain ⟨hlo, hhi, hlevel, hmask⟩ := (parametersInRange_plPlan_iff s).1 hparam
  obtain ⟨g, b, hg, hb, rfl⟩ := plPlan_done hw
  have hcfg : b.cfg = s.cfg := (blAll_keeps hb).cfg.trans (gpAll_keeps hg).cfg
  have hrequest : requestedMask s = requestedMask b := by rw [requestedMask, requestedMask, hcfg]
  have hn : (if 0 ≤ requestedMask s then 1 else 8) = 1 ∨ (if 0 ≤ requestedMask s then 1 else 8) = 8 := by
    split_ifs <;> simp
  have hncopy : b.ncopy = if 0 ≤ requestedMask s then 1 else 8 := by
    rw [blAll_frame hb, (gpAll_frame hg).1]
    exact gpInit_ncopy s (by omega)
  have hb' := blAll_finished (gpAll_drawn hlo hhi hn halign hg) (gpAll_ready_blAll hf hlevel hg) hb
  have hblevel : b.plan.plancfg.level.toNat ≤ 3 := by
    rw [blAll_frame hb]
    show g.cfg.level.toNat ≤ 3
    rwa [(gpAll_keeps hg).cfg]
  obtain ⟨hside, hcopies, hplancfg, hcell, hpixel⟩ := sealPlan_planTemplates_reads b
  simp only [hside, hcopies, hplancfg, hcell, hpixel]
  refine ⟨hb'.assigned, g.finish, ?_, fun k r c hk hr hc => ?_⟩
  · rw [hncopy]
    exact exec_gpAll hf hlo hhi hn hg
  obtain ⟨hmodule, hm⟩ := hb'.tplPixel_planTemplates_of_copies (by rwa [hcfg]) (by rw [hncopy, hrequest]) hk hr hc
  rw [hmodule, State.finish_tplPixel, ← blAll_tplPixel hb]
  cases hrole : (b.cell r c).role with
  | format => exact hb'.roleModule_of_format hr hc hm hblevel hrole
  | data | check | extra => exact roleModule_of_masked (by rw [hrole]; rfl)
  | _ => exact roleModule_of_fixed (by rw [hrole]; nofun) (by rw [hrole]; rfl)

/-! ### `PL.PLAN` and its step commands (rules R186, R187) -/

/-- `MK.APPLY` does not see how the last command ended. -/
theorem mkApply_finish (m k : Nat) (s : State) : mkApply m k s.finish = (mkApply m k s).finish := by
  rw [mkApply_eq_foldl, mkApply_eq_foldl]
  exact List.foldl_hom State.finish fun _ _ => rfl

/-- The layout is complete, and the plan not sealed: templates can be written. -/
structure LaidOut (s : State) : Prop where
  unlocked  : s.status.fatal = false
  gridInit  : s.status.gridInit = true
  gpstep_eq : s.status.gpstep = 6
  paramOk   : s.status.paramOk = true
  layoutOk  : s.status.layoutOk = true
  notSealed : s.status.planOk = false

theorem LaidOut.congr {s u : State} (h : LaidOut s) (hu : SameButFormat s u) : LaidOut u := by
  rw [hu]
  exact { h with }

theorem blAll_laidOut {s t : State} (hready : Ready .blAll s) (h : blAll s = .done t) : LaidOut t := by
  obtain ⟨hf, hpre, -, -⟩ := hready
  obtain ⟨hg, hstep, -, hp⟩ := (precondition_blAll_iff s).1 hpre
  rw [blAll_frame h]
  exact ⟨hf, hg, hstep, rfl, rfl, hp⟩

section
variable {s t : State} {is : List Instr} {m k : Nat}

/-- The two commands of a template at the head of a chain. -/
theorem LaidOut.chain_cons (h : LaidOut s) (hm : m ≤ 7) (hk : k ≤ 7) (hcopy : k < s.ncopy)
    (hrest : Chain is (planTemplate m k s).finish t) : Chain (.fiPlan m k :: .mkApply m k :: is) s.finish t := by
  have hframe := fiPlan_sameButFormat m k s
  have hlaid := h.congr hframe
  have hplan : Ready (.fiPlan m k) s.finish :=
    ⟨h.unlocked, (precondition_fiPlan_iff m k _).2 ⟨h.gridInit, h.gpstep_eq, h.paramOk, h.notSealed⟩,
      (parametersInRange_fiPlan_iff m k _).2 hm, (operandsInRange_fiPlan_iff m k _).2 ⟨hk, hcopy⟩⟩
  have hexec : exec (.fiPlan m k) s.finish = .next (fiPlan m k s).finish := by
    have hpaint : fiPlan m k s.finish = (fiPlan m k s).finish := fiPaint_finish k (fiEnc m s)
    rw [← State.finish_finish (fiPlan m k s), ← hpaint]
    exact exec_done (i := .fiPlan m k) nofun hplan rfl
  have happly : Ready (.mkApply m k) (fiPlan m k s).finish :=
    ⟨hlaid.unlocked, (precondition_mkApply_iff m k _).2 ⟨hlaid.layoutOk, hlaid.notSealed⟩,
      (parametersInRange_mkApply_iff m k _).2 hm,
      (operandsInRange_mkApply_iff m k _).2 ⟨hk, hcopy.trans_eq hframe.ncopy.symm⟩⟩
  have hexec' : exec (.mkApply m k) (fiPlan m k s).finish = .next (planTemplate m k s).finish := by
    rw [← State.finish_finish (planTemplate m k s), planTemplate, ← mkApply_finish]
    exact exec_done (i := .mkApply m k) nofun happly rfl
  exact ⟨_, hexec, rfl, _, hexec', rfl, hrest⟩

/-- The commands of templates one after the other. -/
theorem LaidOut.chain_templates (h : LaidOut s) (l : List Nat) (hl : ∀ k ∈ l, k ≤ 7 ∧ k < s.ncopy) :
    Chain (l.flatMap fun k => [.fiPlan k k, .mkApply k k]) s.finish (l.foldl (fun t k => planTemplate k k t) s).finish := by
  induction l generalizing s with
  | nil => rfl
  | cons k l ih =>
    obtain ⟨hk, hcopy⟩ := hl k List.mem_cons_self
    have hframe := planTemplate_sameButFormat k k s
    refine h.chain_cons hk hk hcopy (ih (h.congr hframe) fun j hj => ?_)
    rw [hframe.ncopy]
    exact hl j (List.mem_cons_of_mem k hj)

end

/-- Settles O47: the record's constraints make every part of the effect complete, and no part sees the end of a command that
is issued before it. -/
theorem plPlanIsTheHandBuiltPlanSealed : Obligations.PlPlanIsTheHandBuiltPlanSealed := by
  intro s hf
  refine ⟨fun hlo hhi hlevel hmask halign hsound hmin hmax => ?_,
    fun hbad => exec_invalidParameter (i := .plPlan) nofun hf rfl ((parametersInRange_plPlan_iff s).not.2 hbad)⟩
  obtain ⟨g, hg⟩ := gpAll_isDone (if 0 ≤ requestedMask s then 1 else 8) halign
  have hn : (if 0 ≤ requestedMask s then 1 else 8) = 1 ∨ (if 0 ≤ requestedMask s then 1 else 8) = 8 := by
    split_ifs <;> simp
  have hgcap : g.capEntry = capRecord s.config s.cfg.version.toNat := by rw [(gpAll_frame hg).1]; rfl
  have hgcfg := (gpAll_keeps hg).cfg
  have hfree := freeCells_gpAll hlo hhi halign hg
  have hready := gpAll_ready_blAll hf hlevel hg
  obtain ⟨b, hb⟩ : ∃ b, blAll g = .done b := by
    refine blAll_isDone ?_ ?_ (gpAll_planShape hlo hhi hn hg).sweepOrder_nodup ?_ ?_
    · rwa [hgcfg]
    · rwa [hgcap, hgcfg]
    · rwa [hgcap, hfree]
    · rwa [hgcap, hfree]
  have hcfg : b.cfg = s.cfg := (blAll_keeps hb).cfg.trans hgcfg
  have hncopy : b.ncopy = if 0 ≤ requestedMask s then 1 else 8 := by
    rw [blAll_frame hb, (gpAll_frame hg).1]
    exact gpInit_ncopy s (by omega)
  have hlaid := blAll_laidOut hready hb
  have hplan : plPlan s = .done (sealPlan (planTemplates b)) := by
    unfold plPlan
    dsimp only
    rw [hg, Effect.andThen_done, hb, Effect.andThen_done]
  refine ⟨(sealPlan (planTemplates b)).finish, (planTemplates b).finish,
    exec_done (i := .plPlan) nofun ⟨hf, rfl, (parametersInRange_plPlan_iff s).2 ⟨hlo, hhi, hlevel, hmask⟩, rfl⟩ hplan,
    ?_, fun hfixed => ?_, fun hsearch => ?_⟩
  · have hTcfg : (planTemplates b).cfg = s.cfg := by rw [(planTemplates_sameButFormat b).1]; exact hcfg
    rw [← hTcfg]
    rfl
  · rw [requestedMask_of_le hfixed, if_pos (by omega)] at hn hg hncopy
    rw [planTemplates_of_le (by rwa [hcfg]), hcfg]
    exact ⟨_, exec_gpAll hf hlo hhi hn hg, rfl, _, exec_blAll hready hb, rfl,
      hlaid.chain_cons hfixed (by omega) (by omega) rfl⟩
  · rw [requestedMask_of_search hsearch, if_neg (by omega)] at hn hg hncopy
    rw [planTemplates_of_search (by rwa [hcfg])]
    exact ⟨_, exec_gpAll hf hlo hhi hn hg, rfl, _, exec_blAll hready hb, rfl,
      hlaid.chain_templates _ fun k hk => by rw [List.mem_range] at hk; omega⟩

end Sys2Proof.Machine
end
